-- ==== Sys2Proof/Word.lean ====
section
/-! DEFINITION. The word and byte types of MHRP (00_scope.md R9 `BUS_WIDTH` = 32, R11). -/

namespace Sys2Proof

/-- A register, a command word or a bus word: 32 bits (10_state.md R23, 20_memory.md R60). -/
abbrev Word := BitVec 32

/-- A byte of the input buffer (10_state.md R24). -/
abbrev Byte := BitVec 8

end Sys2Proof
end

