-- ==== Sys2Proof/Syntax.lean ====
section
/-! DEFINITION. The enumerations SRC names (00_scope.md R15) and the seven commands, one constructor for each row of
spec/opcode_table.json (30_encoding.md R81). -/

namespace Sys2Proof

/-- `version` of a frame header, in SRC's listing order (00_scope.md R15). -/
inductive Version where
  | v1 | v2 | v2_5
  deriving DecidableEq, Repr

/-- `layer` of a frame header, in SRC's listing order (00_scope.md R15). -/
inductive Layer where
  | reserved | l1 | l2 | l3
  deriving DecidableEq, Repr

/-- `channel_mode` of a frame header, in SRC's listing order, which is also the stream's code (00_scope.md R15, 42_header.md R159). -/
inductive ChannelMode where
  | stereo | jointStereo | dualMonaural | singleChannel
  deriving DecidableEq, Repr

/-- `block_type` of a window-switched channel, in SRC's listing order (00_scope.md R15). -/
inductive BlockType where
  | start | short | mixed | endBlock
  deriving DecidableEq, Repr

/-- A command (30_encoding.md R81). Its operands are the unsigned fields of the command word (R88). A numeric operand may be
any number here; `Instr.wf` says which ones fit their field (R95), and every value that fits is legal (R90). -/
inductive Instr where
  /-- EXTRACT: OP 0x1, format X (30_encoding.md R82). -/
  | extract (offset width : Nat)
  /-- PARSE_HDR: OP 0x2, format N (30_encoding.md R83). -/
  | parseHdr
  /-- PARSE_SI: OP 0x3, format M (30_encoding.md R84). -/
  | parseSi (mode : ChannelMode)
  /-- PARSE_CH: OP 0x4, format N (30_encoding.md R83). -/
  | parseCh
  /-- LUT_BITRATE: OP 0x5, format B (30_encoding.md R85); `layer` is the 2-bit layer code as in the header. -/
  | lutBitrate (index layer : Nat)
  /-- LUT_SRATE: OP 0x6, format S (30_encoding.md R86). -/
  | lutSrate (index : Nat)
  /-- LUT_FSIZE: OP 0x7, format F (30_encoding.md R87). -/
  | lutFsize (kbps hz : Nat)
  deriving DecidableEq, Repr

end Sys2Proof
end

