-- ==== Sys2Proof/WellFormed.lean ====
section
/-! DEFINITION. When a command's operands fit their fields (30_encoding.md R82 to R88, R95). -/

namespace Sys2Proof

/-- Every operand fits its field of the command word: "An assembler refuses an operand that does not fit its field"
(30_encoding.md R95). A value that fits is well formed even where the command will fail on it (R90). -/
def Instr.wf : Instr → Bool
  | .extract offset width => decide (offset < 2 ^ 8) && decide (width < 2 ^ 5)
  | .parseHdr => true
  | .parseSi _ => true
  | .parseCh => true
  | .lutBitrate index layer => decide (index < 2 ^ 4) && decide (layer < 2 ^ 2)
  | .lutSrate index => decide (index < 2 ^ 2)
  | .lutFsize kbps hz => decide (kbps < 2 ^ 9) && decide (hz < 2 ^ 17)

end Sys2Proof
end

