-- ==== Sys2Proof/Decode.lean ====
section
/-! DEFINITION. Bit fields of a word, the command decoder, and the encoder (30_encoding.md R80 to R90). -/

namespace Sys2Proof

/-! ## Bit fields (00_scope.md R12) -/

/-- `v[hi:lo]` as an unsigned number (00_scope.md R12). -/
def slice (v : Word) (hi lo : Nat) : Nat := v.toNat / 2 ^ lo % 2 ^ (hi + 1 - lo)

/-- The word that has each value `f.2` at its lowest bit `f.1`, and 0 elsewhere, for values that fit their fields. -/
def pack (fields : List (Nat × Nat)) : Word :=
  BitVec.ofNat 32 (fields.foldr (fun f rest => f.2 * 2 ^ f.1 + rest) 0)

/-! ## Stream codes of the enumerations -/

/-- The 2-bit code of a channel mode, in the stream and in HDR0.MODE alike (42_header.md R159, 30_encoding.md R84). -/
def ChannelMode.code : ChannelMode → Nat
  | .stereo => 0
  | .jointStereo => 1
  | .dualMonaural => 2
  | .singleChannel => 3

/-- The channel mode of a 2-bit code: "direct enum mapping" (42_header.md R159). -/
def ChannelMode.ofCode : Nat → ChannelMode
  | 0 => .stereo
  | 1 => .jointStereo
  | 2 => .dualMonaural
  | _ => .singleChannel

/-! ## The opcode table -/

/-- A row of spec/opcode_table.json: a word is the row's command when `word &&& mask = bits` (30_encoding.md R89). -/
structure OpcodeRow where
  op : Nat
  mask : Word
  bits : Word
  deriving DecidableEq, Repr

/-- The seven rows of spec/opcode_table.json, as the table has them (30_encoding.md R81, R89). -/
def opcodeRows : List OpcodeRow :=
  [⟨1, 0xFFFE000F#32, 0x00000001#32⟩,
   ⟨2, 0xFFFFFFFF#32, 0x00000002#32⟩,
   ⟨3, 0xFFFFFFCF#32, 0x00000003#32⟩,
   ⟨4, 0xFFFFFFFF#32, 0x00000004#32⟩,
   ⟨5, 0xFFFFFC0F#32, 0x00000005#32⟩,
   ⟨6, 0xFFFFFFCF#32, 0x00000006#32⟩,
   ⟨7, 0xC000000F#32, 0x00000007#32⟩]

/-! ## The decoder -/

/-- Why a command word is illegal (30_encoding.md R90). -/
inductive DecodeError where
  /-- OP is 0x0 or 0x8 to 0xF. -/
  | reservedOpcode
  /-- A reserved bit of the opcode's format is 1. -/
  | reservedBit
  deriving DecidableEq, Repr

/-- The command, when the reserved bits `31:lo` of its format are 0 (30_encoding.md R82 to R87, R90). -/
def unlessReserved (w : Word) (lo : Nat) (i : Instr) : Except DecodeError Instr :=
  if slice w 31 lo = 0 then .ok i else .error .reservedBit

/-- The decoder: OP is bits 3:0, the operands are the unsigned fields of the opcode's format (30_encoding.md R80 to R90). -/
def decode (w : Word) : Except DecodeError Instr :=
  match slice w 3 0 with
  | 1 => unlessReserved w 17 (.extract (slice w 11 4) (slice w 16 12))
  | 2 => unlessReserved w 4 .parseHdr
  | 3 => unlessReserved w 6 (.parseSi (ChannelMode.ofCode (slice w 5 4)))
  | 4 => unlessReserved w 4 .parseCh
  | 5 => unlessReserved w 10 (.lutBitrate (slice w 7 4) (slice w 9 8))
  | 6 => unlessReserved w 6 (.lutSrate (slice w 5 4))
  | 7 => unlessReserved w 30 (.lutFsize (slice w 12 4) (slice w 29 13))
  | _ => .error .reservedOpcode

/-- The command word of an instruction (30_encoding.md R82 to R87). -/
def encode : Instr → Word
  | .extract offset width => pack [(0, 1), (4, offset), (12, width)]
  | .parseHdr => pack [(0, 2)]
  | .parseSi mode => pack [(0, 3), (4, mode.code)]
  | .parseCh => pack [(0, 4)]
  | .lutBitrate index layer => pack [(0, 5), (4, index), (8, layer)]
  | .lutSrate index => pack [(0, 6), (4, index)]
  | .lutFsize kbps hz => pack [(0, 7), (4, kbps), (13, hz)]

/-- The OP field of an instruction's word (30_encoding.md R81). -/
def Instr.opcode : Instr → Nat
  | .extract _ _ => 1
  | .parseHdr => 2
  | .parseSi _ => 3
  | .parseCh => 4
  | .lutBitrate _ _ => 5
  | .lutSrate _ => 6
  | .lutFsize _ _ => 7

/-- The command word whose low `nbits` bits are those of `w`, every higher bit 0. A command is one word, so the word is laid
out as the bus carries it (30_encoding.md R80, 20_memory.md R64). -/
def tableWord (nbits w : Nat) : Word := BitVec.ofNat 32 (w % 2 ^ nbits)

/-- What the decoder reads from a word given as spec/opcode_table.json numbers its bits; none where it refuses. -/
def decodeTableWord (nbits w : Nat) : Option Instr :=
  match decode (tableWord nbits w) with
  | .ok i => some i
  | .error _ => none

end Sys2Proof
end

