-- ==== Sys2Proof/Config.lean ====
section
/-! DEFINITION. What is fixed for one MHRP: the implementation parameters of 00_scope.md R9, and the free values of the model.
The default values of the table parameters stand in Machine/Tables.lean. -/

namespace Sys2Proof

/-- The two side-information layouts (00_scope.md R9 `SI_LAYOUT`, 30_encoding.md R92, R93). -/
inductive SiLayout where
  | doc | iso
  deriving DecidableEq, Repr

/-- One row of the bitrate table: an index and its kbps in each layer (41_tables.md R120). -/
structure BitrateRow where
  index : Nat
  l1 : Nat
  l2 : Nat
  l3 : Nat
  deriving DecidableEq, Repr

/-- The parameters of 00_scope.md R9 that a claim may range over. SRATE_TABLE is fixed and no parameter (41_tables.md R122). -/
structure Params where
  /-- `BITRATE_TABLE` (41_tables.md R120). -/
  bitrateTable : List BitrateRow
  /-- `FRAME_SIZE_TABLE`: (kbps, Hz) to bytes (41_tables.md R124). -/
  frameSizeTable : List ((Nat × Nat) × Nat)
  /-- `FREE_REJECT_LAYERS` (41_tables.md R123). -/
  freeReject : List Layer
  /-- `SI_LAYOUT` (43_sideinfo.md R193, R194). -/
  siLayout : SiLayout
  deriving DecidableEq, Repr

namespace Config

/-- `IBUF_BYTES` (00_scope.md R9, 10_state.md R24). -/
abbrev ibufBytes : Nat := 32

/-- `MAX_WIDTH`, the largest EXTRACT width (00_scope.md R9, 40_bitfield.md R103). -/
abbrev maxWidth : Nat := 16

/-- Which 128-byte slot of the host's bus the window stands in: OPEN (00_scope.md R9 `BASE`, 92_eei_decisions.md D5), so no
value is known of it (log 10). -/
opaque baseSlot : Nat

/-- `BASE`, the bus address of the register window, aligned to 128 bytes (20_memory.md R61). -/
def base : Nat := 128 * baseSlot

/-- FREE VALUE. The byte `IBUF[i]` takes at the `n`-th reset inside a run: "unspecified, each byte a draw"
(10_state.md R25, R51; log 4). Nothing is known of it. -/
opaque resetByte : (n i : Nat) → Byte

end Config

end Sys2Proof
end

