-- ==== Sys2Proof/Machine/State.lean ====
section
/-! DEFINITION. The state of MHRP (10_state.md), the data of its two agents (10_state.md R22), its failures
(60_exceptions.md R250), the reasons a run can stop, and the state after reset (10_state.md R51). -/

namespace Sys2Proof.Machine

/-- The bytes of IBUF by index, in canonical form: indexes strictly rising, no entry equal to what an unlisted index reads as
(Machine/Memory.lean, `Memory.wf`; DESIGN CHOICE, log 13). -/
abbrev Memory := List Host.Cell

/-! ## The host agent's data -/

/-- A host bus transaction at a byte offset from `BASE` (20_memory.md R60); a size other than 4 bytes is a bus error (R65). -/
inductive Txn where
  | read (off size : Nat)
  | write (off size : Nat) (v : Word)
  deriving DecidableEq, Repr

/-- What a host transaction answers (20_memory.md R60). -/
inductive BusResp where
  /-- A read's word. -/
  | data (v : Word)
  /-- A write that completed without error, dropped ones among them (10_state.md R42, R43). -/
  | written
  /-- A bus error: nothing has changed (20_memory.md R65, R66). -/
  | busError
  deriving DecidableEq, Repr

/-- What a host still does, in the notation of 30_encoding.md R96. -/
inductive HostOp where
  /-- `WR` or `RD`: one transaction. -/
  | txn (t : Txn)
  /-- `WAIT`: repeat `RD 0x04` until STATUS.BUSY = 0. -/
  | wait
  /-- `PARSE_SI.FROM_HDR`: `RD 0x14 -> h`, then `SUBMIT PARSE_SI h[7:6]`. -/
  | siFromHdr
  deriving DecidableEq, Repr

/-- Who moves: the host, the engine (10_state.md R22), or the reset input (70_reset_and_hazards.md R280). -/
inductive Turn where
  | host | engine | reset
  deriving DecidableEq, Repr

/-! ## Command failures and result groups -/

/-- The failures of 60_exceptions.md R250: SRC's six decode failures and the two programming errors (00_scope.md R18). -/
inductive Failure where
  | syncNotFound | unsupportedVersion | unsupportedLayer | invalidBitrate | invalidSamplingRate | invalidBlockType
  | contractViolation | illegalCommand
  deriving DecidableEq, Repr

/-- The result groups of 10_state.md R30. -/
inductive Group where
  | ext | lut | hdr | si | ch
  deriving DecidableEq, Repr

/-- The words of one group's result registers (10_state.md R30). -/
inductive Result where
  /-- EXTR. -/
  | ext (extr : Word)
  /-- LUTR. -/
  | lut (lutr : Word)
  /-- HDR0, HDR1, HDR2. -/
  | hdr (hdr0 hdr1 hdr2 : Word)
  /-- SI0. -/
  | si (si0 : Word)
  /-- CH0, CH1, CH2, CH3. -/
  | ch (ch0 ch1 ch2 ch3 : Word)
  deriving DecidableEq, Repr

/-! ## The state -/

/-- Every piece of state the spec gives the machine (10_state.md R23 to R40, R51), and the model's own record of the two
agents (R22): what the host still does, who moves next, what the host was answered, and how many reset draws were taken. -/
structure State where
  /-- LCMD, the last accepted command word (R27). -/
  lcmd : Word
  /-- STATUS.BUSY, bit 0 (R28). -/
  busy : Bool
  /-- STATUS.DONE, bit 1 (R28). -/
  done : Bool
  /-- STATUS.ERR, bit 2 (R28). -/
  err : Bool
  /-- STATUS.ERRCODE, bits 7:4 (R28). -/
  errcode : BitVec 4
  /-- STATUS.EXT_VALID, bit 8 (R28). -/
  extValid : Bool
  /-- STATUS.LUT_VALID, bit 9 (R28). -/
  lutValid : Bool
  /-- STATUS.HDR_VALID, bit 10 (R28). -/
  hdrValid : Bool
  /-- STATUS.SI_VALID, bit 11 (R28). -/
  siValid : Bool
  /-- STATUS.CH_VALID, bit 12 (R28). -/
  chValid : Bool
  /-- STATUS.OVERRUN, bit 16 (R28). -/
  overrun : Bool
  /-- ILEN.LEN, bits 5:0 of ILEN (R26). -/
  ilen : BitVec 6
  /-- IBUF (R24). -/
  ibuf : Memory
  /-- EXTR (R31). -/
  extr : Word
  /-- LUTR (R32). -/
  lutr : Word
  /-- HDR0 (R33). -/
  hdr0 : Word
  /-- HDR1 (R34). -/
  hdr1 : Word
  /-- HDR2 (R35). -/
  hdr2 : Word
  /-- SI0 (R36). -/
  si0 : Word
  /-- CH0 (R37). -/
  ch0 : Word
  /-- CH1 (R38). -/
  ch1 : Word
  /-- CH2 (R39). -/
  ch2 : Word
  /-- CH3 (R40). -/
  ch3 : Word
  /-- MODEL'S OWN (DESIGN CHOICE, log 1): what the host still does, next first. -/
  hostProg : List HostOp
  /-- MODEL'S OWN (DESIGN CHOICE, log 1): who moves next, soonest first; when empty, the engine if it is enabled, else the host. -/
  turns : List Turn
  /-- MODEL'S OWN (DESIGN CHOICE, log 1): the answers the host got, newest first. -/
  trace : List BusResp
  /-- MODEL'S OWN (DESIGN CHOICE, log 4): how many reset draws were taken; the free value `Config.resetByte` is applied to it. -/
  draws : Nat
  deriving DecidableEq, Repr

/-! ## Why a run stops -/

/-- `step` never faults: every command completes, failures among them (60_exceptions.md R253). These are the faults of a HOST
PROGRAM that 93_implementation_defined.md asks a model to give claims about programs; `guardedStep` of Safety.lean alone raises
them. All are SAFE: they stop a run on which the hardware goes on. -/
inductive Fault where
  /-- A host transaction was answered with a bus error (20_memory.md R65, R66; U21). Raised by `guardedStep`; safe. -/
  | busError
  /-- A command completed with ContractViolation (60_exceptions.md R253; U17). Raised by `guardedStep`; safe. -/
  | contractViolation
  /-- A command completed with IllegalCommand (60_exceptions.md R253; U18). Raised by `guardedStep`; safe. -/
  | illegalCommand
  deriving DecidableEq, Repr

/-- Reasons for which a step has no meaning. Every command has one, so nothing raises these. -/
inductive Refusal where
  /-- A command whose meaning is not written yet: raised by an arm of exec, by no arm now; safe. -/
  | notModelled (mnemonic : String)
  deriving DecidableEq, Repr

/-! ## Reset -/

/-- The machine right after reset, for the IBUF contents `ibuf` that the reset drew: 10_state.md R51 fixes everything else. -/
def State.resetWith (ibuf : Memory) : State where
  lcmd := 0#32
  busy := false
  done := false
  err := false
  errcode := 0#4
  extValid := false
  lutValid := false
  hdrValid := false
  siValid := false
  chValid := false
  overrun := false
  ilen := 0#6
  ibuf := ibuf
  extr := 0#32
  lutr := 0#32
  hdr0 := 0#32
  hdr1 := 0#32
  hdr2 := 0#32
  si0 := 0#32
  ch0 := 0#32
  ch1 := 0#32
  ch2 := 0#32
  ch3 := 0#32
  hostProg := []
  turns := []
  trace := []
  draws := 0

/-- The machine right after power-on (70_reset_and_hazards.md R281). DESIGN CHOICE (log 3): IBUF, which R25 leaves unspecified,
lists no byte here, so each reads 0x00. -/
def State.reset : State := State.resetWith []

end Sys2Proof.Machine
end

