-- ==== Sys2Proof/Machine/Flags.lean ====
section
/-! DEFINITION. STATUS: its word, the failure codes, and every way its bits change (10_state.md R28 to R30, R41 to R47). -/

namespace Sys2Proof.Machine

/-- The code of a failure in STATUS.ERRCODE (60_exceptions.md R250). Codes 7 and 10 to 15 are never written. -/
def Failure.code : Failure → BitVec 4
  | .syncNotFound => 1#4
  | .unsupportedVersion => 2#4
  | .unsupportedLayer => 3#4
  | .invalidBitrate => 4#4
  | .invalidSamplingRate => 5#4
  | .invalidBlockType => 6#4
  | .contractViolation => 8#4
  | .illegalCommand => 9#4

/-- STATUS as a bus read returns it; reserved bits 3, 15:13 and 31:17 read 0 (10_state.md R28, R50). -/
def State.statusWord (s : State) : Word :=
  pack [(0, s.busy.toNat), (1, s.done.toNat), (2, s.err.toNat), (4, s.errcode.toNat), (8, s.extValid.toNat), (9, s.lutValid.toNat),
    (10, s.hdrValid.toNat), (11, s.siValid.toNat), (12, s.chValid.toNat), (16, s.overrun.toNat)]

/-- The VALID bit of a result group (10_state.md R28, R30). -/
def State.groupValid (s : State) : Group → Bool
  | .ext => s.extValid
  | .lut => s.lutValid
  | .hdr => s.hdrValid
  | .si => s.siValid
  | .ch => s.chValid

/-- The status bits of a successful completion (10_state.md R45). -/
def State.succeed (s : State) : State :=
  { s with err := false, errcode := 0#4, busy := false, done := true }

/-- The status bits of a failed completion (10_state.md R45). -/
def State.fail (s : State) (e : Failure) : State :=
  { s with err := true, errcode := e.code, busy := false, done := true }

/-- A host write was dropped because BUSY = 1 (10_state.md R42, R43). -/
def State.markOverrun (s : State) : State := { s with overrun := true }

/-- A host write of `v` to STATUS: it clears OVERRUN when `v[16]` = 1 and has no other effect (10_state.md R29). -/
def State.writeStatus (s : State) (v : Word) : State :=
  { s with overrun := s.overrun && decide (slice v 16 16 = 0) }

end Sys2Proof.Machine
end

