-- ==== Sys2Proof/Machine/Memory.lean ====
section
/-! DEFINITION. IBUF as a canonical list of cells: reading and writing a byte, and the word lanes of 20_memory.md R62. -/

namespace Sys2Proof.Machine

/-- What a byte of IBUF that the list does not name reads as (DESIGN CHOICE, unsafe, log 3). -/
def unlistedByte : Byte := 0x00#8

/-- The byte at an index. -/
def Memory.read : Memory → Nat → Byte
  | [], _ => unlistedByte
  | (k, b) :: m, a => if k = a then b else Memory.read m a

/-- A cell in front of a memory whose indexes are all larger; left out when it holds what an unlisted index reads as. -/
def Memory.cell (a : Nat) (b : Byte) (m : Memory) : Memory := if b = unlistedByte then m else (a, b) :: m

/-- The memory with the byte at one index replaced, in canonical form. -/
def Memory.write : Memory → Nat → Byte → Memory
  | [], a, b => Memory.cell a b []
  | (k, c) :: m, a, b =>
    if a < k then Memory.cell a b ((k, c) :: m)
    else if a = k then Memory.cell a b m
    else (k, c) :: Memory.write m a b

/-- The canonical form from a least index on: indexes rise strictly and stay inside IBUF (10_state.md R24), and no entry holds
what an unlisted index reads as. -/
def Memory.wfFrom : Nat → Memory → Bool
  | _, [] => true
  | lo, (k, b) :: m => decide (lo ≤ k) && decide (k < Config.ibufBytes) && decide (b ≠ unlistedByte) && Memory.wfFrom (k + 1) m

/-- The canonical form of an IBUF. -/
def Memory.wf (m : Memory) : Bool := Memory.wfFrom 0 m

/-- `IBUF_Wk` as a bus read returns it: `IBUF[4k]` in bits 31:24 down to `IBUF[4k+3]` in bits 7:0 (20_memory.md R62). -/
def Memory.readWord (m : Memory) (k : Nat) : Word :=
  pack [(24, (m.read (4 * k)).toNat), (16, (m.read (4 * k + 1)).toNat), (8, (m.read (4 * k + 2)).toNat), (0, (m.read (4 * k + 3)).toNat)]

/-- Bits `hi:hi-7` of a bus word as a byte. -/
def laneByte (v : Word) (hi lo : Nat) : Byte := BitVec.ofNat 8 (slice v hi lo)

/-- IBUF after a bus write of `v` to `IBUF_Wk`, which sets its four bytes (20_memory.md R62). -/
def Memory.writeWord (m : Memory) (k : Nat) (v : Word) : Memory :=
  (((m.write (4 * k) (laneByte v 31 24)).write (4 * k + 1) (laneByte v 23 16)).write (4 * k + 2) (laneByte v 15 8)).write
    (4 * k + 3) (laneByte v 7 0)

/-- The IBUF a reset draws: every byte a free value (10_state.md R25, R51; log 4). -/
@[irreducible] def drawIbuf (n : Nat) : Memory :=
  (List.range Config.ibufBytes).foldl (fun m i => m.write i (Config.resetByte n i)) []

end Sys2Proof.Machine
end

