-- ==== Sys2Proof/Machine/Operands.lean ====
section
/-! DEFINITION. What commands read: ILEN, the input window of IBUF, the Bit-Field Extractor (40_bitfield.md R100 to R103), and
the stream layouts (30_encoding.md R91 to R94). -/

namespace Sys2Proof.Machine

/-! ## The input -/

/-- `ILEN.LEN` (10_state.md R26). -/
def State.inputLength (s : State) : Nat := s.ilen.toNat

/-- `IBUF[0 .. ILEN.LEN-1]`, the byte sequence a command reads (00_scope.md R14, 20_memory.md R68). Every command fails
before it reads a byte when the length exceeds IBUF (10_state.md R26). -/
def State.inputBytes (s : State) : List Byte := (List.range s.inputLength).map s.ibuf.read

/-! ## The Bit-Field Extractor -/

/-- `bit_B(k)`: stream bit `k` is bit `7 - (k mod 8)` of byte `k div 8` (00_scope.md R11, 40_bitfield.md R101). A command reads
no bit beyond its bytes (R103). -/
def streamBit (B : List Byte) (k : Nat) : Nat := (B.getD (k / 8) 0).toNat / 2 ^ (7 - k % 8) % 2

/-- `bits_B(o, w)`: the unsigned integer formed by stream bits `o .. o+w-1`, most significant first (40_bitfield.md R101). -/
def bits (B : List Byte) (o : Nat) : Nat → Nat
  | 0 => 0
  | w + 1 => 2 * bits B o w + streamBit B (o + w)

/-- The extractor's precondition is violated (40_bitfield.md R103). -/
def extractorMisused (n o w : Nat) : Bool := decide (w = 0) || decide (w > Config.maxWidth) || decide (o + w > 8 * n)

/-- A field of a stream layout: the offset of its first bit, and its width (00_scope.md R11). -/
structure Field where
  offset : Nat
  width : Nat
  deriving DecidableEq, Repr

/-- A field's value as a number. -/
def Field.num (f : Field) (B : List Byte) : Nat := bits B f.offset f.width

/-- A field's value as the bits it has. -/
def Field.val (f : Field) (B : List Byte) : BitVec f.width := BitVec.ofNat f.width (bits B f.offset f.width)

/-- A one-bit field read as a flag: set when the bit is 1. -/
def Field.flag (f : Field) (B : List Byte) : Bool := decide (bits B f.offset f.width = 1)

/-! ## Frame header layout (30_encoding.md R91); the private bit, offset 23, has no field, since no step reads it -/

abbrev hdrSync : Field := ⟨0, 11⟩
abbrev hdrVersion : Field := ⟨11, 2⟩
abbrev hdrLayer : Field := ⟨13, 2⟩
abbrev hdrProtection : Field := ⟨15, 1⟩
abbrev hdrBitrate : Field := ⟨16, 4⟩
abbrev hdrSampling : Field := ⟨20, 2⟩
abbrev hdrPadding : Field := ⟨22, 1⟩
abbrev hdrMode : Field := ⟨24, 2⟩
abbrev hdrMsStereo : Field := ⟨26, 1⟩
abbrev hdrIntensity : Field := ⟨27, 1⟩
abbrev hdrCopyright : Field := ⟨28, 1⟩
abbrev hdrOriginal : Field := ⟨29, 1⟩
abbrev hdrEmphasis : Field := ⟨30, 2⟩

/-! ## Side-information layouts (30_encoding.md R92 DOC, R93 ISO) -/

abbrev siMainDataBegin : Field := ⟨0, 9⟩
abbrev siDocMono : Field := ⟨9, 4⟩
abbrev siDocStereo : Field := ⟨9, 6⟩
abbrev siIsoMono : Field := ⟨14, 4⟩
abbrev siIsoStereo : Field := ⟨12, 8⟩

/-! ## Channel block layout (30_encoding.md R94); offsets 59 to 63 have no field, since no step reads them -/

abbrev chPart23Length : Field := ⟨0, 12⟩
abbrev chBigValues : Field := ⟨12, 9⟩
abbrev chGlobalGain : Field := ⟨21, 8⟩
abbrev chScalefacCompress : Field := ⟨29, 4⟩
abbrev chWindowSwitching : Field := ⟨33, 1⟩
abbrev chBlockType : Field := ⟨34, 2⟩
abbrev chMixed : Field := ⟨36, 1⟩
abbrev chSwitchedTable0 : Field := ⟨37, 5⟩
abbrev chSwitchedTable1 : Field := ⟨42, 5⟩
abbrev chGain0 : Field := ⟨47, 3⟩
abbrev chGain1 : Field := ⟨50, 3⟩
abbrev chGain2 : Field := ⟨53, 3⟩
abbrev chTable0 : Field := ⟨34, 5⟩
abbrev chTable1 : Field := ⟨39, 5⟩
abbrev chTable2 : Field := ⟨44, 5⟩
abbrev chRegion0 : Field := ⟨49, 4⟩
abbrev chRegion1 : Field := ⟨53, 3⟩
abbrev chPreemphasis : Field := ⟨56, 1⟩
abbrev chScalefacScale : Field := ⟨57, 1⟩
abbrev chCount1Table : Field := ⟨58, 1⟩

end Sys2Proof.Machine
end

