-- ==== Sys2Proof/Machine/Ops.lean ====
section
/-! DEFINITION. The shared operations on the state: accepting a command, writing a result group, completing a command, failing
one, and the reset event. -/

namespace Sys2Proof.Machine

/-! ## Acceptance (10_state.md R41) -/

/-- A command word is accepted. This also ends the previous command's failure report: there is no other return from a failure
(60_exceptions.md R256). -/
def State.accept (s : State) (w : Word) : State :=
  { s with lcmd := w, busy := true, done := false, err := false, errcode := 0#4 }

/-! ## Input registers -/

/-- A host write of `v` to ILEN: LEN is `v[5:0]`, the reserved bits are ignored (10_state.md R26). -/
def State.setIlen (s : State) (v : Word) : State := { s with ilen := BitVec.ofNat 6 (slice v 5 0) }

/-- IBUF replaced. -/
def State.setIbuf (s : State) (m : Memory) : State := { s with ibuf := m }

/-! ## Result groups (10_state.md R30) -/

/-- The registers of a group all 0, which is what a failed completion writes (10_state.md R30). -/
def Group.cleared : Group → Result
  | .ext => .ext 0#32
  | .lut => .lut 0#32
  | .hdr => .hdr 0#32 0#32 0#32
  | .si => .si 0#32
  | .ch => .ch 0#32 0#32 0#32 0#32

/-- The group a result belongs to. -/
def Result.group : Result → Group
  | .ext _ => .ext
  | .lut _ => .lut
  | .hdr _ _ _ => .hdr
  | .si _ => .si
  | .ch _ _ _ _ => .ch

/-- The registers of a group as they stand. -/
def State.groupResult (s : State) : Group → Result
  | .ext => .ext s.extr
  | .lut => .lut s.lutr
  | .hdr => .hdr s.hdr0 s.hdr1 s.hdr2
  | .si => .si s.si0
  | .ch => .ch s.ch0 s.ch1 s.ch2 s.ch3

/-- One group's registers and VALID bit written, and nothing else (10_state.md R30). -/
def State.writeResult (s : State) (r : Result) (valid : Bool) : State :=
  match r with
  | .ext extr => { s with extr := extr, extValid := valid }
  | .lut lutr => { s with lutr := lutr, lutValid := valid }
  | .hdr hdr0 hdr1 hdr2 => { s with hdr0 := hdr0, hdr1 := hdr1, hdr2 := hdr2, hdrValid := valid }
  | .si si0 => { s with si0 := si0, siValid := valid }
  | .ch ch0 ch1 ch2 ch3 => { s with ch0 := ch0, ch1 := ch1, ch2 := ch2, ch3 := ch3, chValid := valid }

/-! ## Completion (10_state.md R45) -/

/-- A successful completion: the result group and the status bits in one step. -/
def State.completeOk (s : State) (r : Result) : State := (s.writeResult r true).succeed

/-- A failed completion, MHRP's whole exception entry (60_exceptions.md R252, R255): the command's group is cleared and the
failure reported in STATUS. An illegal word has no group. -/
def State.completeFail (s : State) (g : Option Group) (e : Failure) : State :=
  match g with
  | some g => (s.writeResult g.cleared false).fail e
  | none => s.fail e

/-- The completion of a legal command of group `g` with its outcome (10_state.md R45). -/
def finish (g : Group) (outcome : Except Failure Result) (s : State) : Host.Outcome State Fault Refusal :=
  match outcome with
  | .ok r => .next (s.completeOk r)
  | .error e => .next (s.completeFail (some g) e)

/-! ## The agents' data -/

/-- The turns still to come, replaced. -/
def State.setTurns (s : State) (ts : List Turn) : State := { s with turns := ts }

/-- The host operations still to perform, replaced. -/
def State.setHostProg (s : State) (ops : List HostOp) : State := { s with hostProg := ops }

/-- The host is answered. -/
def State.record (s : State) (r : BusResp) : State := { s with trace := r :: s.trace }

/-! ## The reset event (70_reset_and_hazards.md R280) -/

/-- Every piece of MHRP's state takes its reset value and a command in flight is discarded; IBUF takes a fresh draw
(10_state.md R25, R51). The host's own data is not MHRP's and stays (DESIGN CHOICE, log 16). -/
def State.resetEvent (s : State) : State :=
  { State.resetWith (drawIbuf s.draws) with
    hostProg := s.hostProg, turns := s.turns, trace := s.trace, draws := s.draws + 1 }

end Sys2Proof.Machine
end

