-- ==== Sys2Proof/Machine/Channel.lean ====
section
/-! DEFINITION. PARSE_CH, the channel bit-allocation parser (44_channel.md R210 to R222). -/

namespace Sys2Proof.Machine

/-- The two layouts of a channel block, a tagged union (44_channel.md R214 to R216, R219). -/
inductive ChannelVariant where
  | normal (table0 table1 table2 : BitVec 5) (region0 : BitVec 4) (region1 : BitVec 3)
  | windowSwitched (blockType : BlockType) (table0 table1 : BitVec 5) (gain0 gain1 gain2 : BitVec 3)
  deriving DecidableEq, Repr

/-- A decoded channel block (44_channel.md R221). -/
structure Channel where
  part23Length : BitVec 12
  bigValues : BitVec 9
  globalGain : BitVec 8
  scalefacCompress : BitVec 4
  preemphasis : Bool
  scalefacScale : Bool
  count1TableSelect : Bool
  layout : ChannelVariant
  deriving DecidableEq, Repr

/-- The two-level branch of the block type; the mixed bit is read for code `'10'` only (44_channel.md R217, R218). -/
def blockTypeDecode (code : Nat) (mixed : Bool) : Except Failure BlockType :=
  match code with
  | 1 => .ok .start
  | 2 => .ok (if mixed then .mixed else .short)
  | 3 => .ok .endBlock
  | _ => .error .invalidBlockType

/-- The output code of a block type (00_scope.md R15). -/
def blockTypeCode : BlockType → Nat
  | .start => 0
  | .short => 1
  | .mixed => 2
  | .endBlock => 3

/-- The dispatch on `window_switching_flag` (44_channel.md R214 to R217). -/
def parseVariant (B : List Byte) : Except Failure ChannelVariant :=
  if chWindowSwitching.flag B then
    (blockTypeDecode (chBlockType.num B) (chMixed.flag B)).map fun blockType =>
      .windowSwitched blockType (chSwitchedTable0.val B) (chSwitchedTable1.val B) (chGain0.val B) (chGain1.val B) (chGain2.val B)
  else
    .ok (.normal (chTable0.val B) (chTable1.val B) (chTable2.val B) (chRegion0.val B) (chRegion1.val B))

/-- The fields of an 8-byte window (44_channel.md R211 to R217). -/
def parseChannel (B : List Byte) : Except Failure Channel :=
  (parseVariant B).map fun layout =>
    { part23Length := chPart23Length.val B
      bigValues := chBigValues.val B
      globalGain := chGlobalGain.val B
      scalefacCompress := chScalefacCompress.val B
      preemphasis := chPreemphasis.flag B
      scalefacScale := chScalefacScale.flag B
      count1TableSelect := chCount1Table.flag B
      layout := layout }

/-- CH1.WSF, the union's tag (10_state.md R38, 44_channel.md R219). -/
def ChannelVariant.tag : ChannelVariant → Nat
  | .normal _ _ _ _ _ => 0
  | .windowSwitched _ _ _ _ _ _ => 1

/-- CH2: the Normal fields, 0 under the other variant (10_state.md R39, 44_channel.md R219). -/
def ChannelVariant.ch2 : ChannelVariant → Word
  | .normal table0 table1 table2 region0 region1 =>
    pack [(0, table0.toNat), (5, table1.toNat), (10, table2.toNat), (15, region0.toNat), (19, region1.toNat)]
  | .windowSwitched _ _ _ _ _ _ => 0#32

/-- CH3: the WindowSwitched fields, 0 under the other variant (10_state.md R40, 44_channel.md R219). -/
def ChannelVariant.ch3 : ChannelVariant → Word
  | .normal _ _ _ _ _ => 0#32
  | .windowSwitched blockType table0 table1 gain0 gain1 gain2 =>
    pack [(0, blockTypeCode blockType), (2, table0.toNat), (7, table1.toNat), (12, gain0.toNat), (15, gain1.toNat), (18, gain2.toNat)]

/-- CH0 (10_state.md R37). -/
def Channel.ch0 (c : Channel) : Word :=
  pack [(0, c.part23Length.toNat), (12, c.bigValues.toNat), (21, c.globalGain.toNat)]

/-- CH1 (10_state.md R38). -/
def Channel.ch1 (c : Channel) : Word :=
  pack [(0, c.scalefacCompress.toNat), (4, c.preemphasis.toNat), (5, c.scalefacScale.toNat), (6, c.count1TableSelect.toNat),
    (7, c.layout.tag)]

/-- The result group CH of a decoded channel block. -/
def Channel.result (c : Channel) : Result := .ch c.ch0 c.ch1 c.layout.ch2 c.layout.ch3

/-- PARSE_CH's outcome on an input of declared length `n` (44_channel.md R210, R221). -/
def runParseCh (n : Nat) (B : List Byte) : Except Failure Result :=
  if n = 8 then (parseChannel B).map Channel.result else .error .contractViolation

/-- PARSE_CH: decode one channel block (44_channel.md R221). -/
def execParseCh (s : State) : Host.Outcome State Fault Refusal :=
  finish .ch (runParseCh s.inputLength s.inputBytes) s

end Sys2Proof.Machine
end

