-- ==== Sys2Proof/Machine/Extract.lean ====
section
/-! DEFINITION. EXTRACT (40_bitfield.md R104). -/

namespace Sys2Proof.Machine

/-- EXTRACT's outcome on an input of declared length `n` (40_bitfield.md R104). -/
def runExtract (o w n : Nat) (B : List Byte) : Except Failure Result :=
  if n > Config.ibufBytes || extractorMisused n o w then .error .contractViolation
  else .ok (.ext (pack [(0, bits B o w)]))

/-- EXTRACT: read one bit field of IBUF into EXTR (40_bitfield.md R104). -/
def execExtract (o w : Nat) (s : State) : Host.Outcome State Fault Refusal :=
  finish .ext (runExtract o w s.inputLength s.inputBytes) s

end Sys2Proof.Machine
end

