-- ==== Sys2Proof/Machine/Tables.lean ====
section
/-! DEFINITION. The Format Tables with MHRP's default content, and their lookups (41_tables.md R120 to R126, R130). -/

namespace Sys2Proof.Machine

/-! ## Contents -/

/-- BITRATE_TABLE, kbps by index in layers L1, L2, L3 (41_tables.md R120; log 12). -/
def bitrateTable : List BitrateRow :=
  [⟨1, 32, 32, 32⟩, ⟨2, 64, 48, 40⟩, ⟨3, 96, 56, 48⟩, ⟨4, 128, 64, 56⟩, ⟨5, 160, 80, 64⟩, ⟨6, 192, 96, 80⟩, ⟨7, 224, 112, 96⟩,
   ⟨8, 256, 128, 112⟩, ⟨9, 288, 160, 128⟩, ⟨10, 320, 192, 160⟩, ⟨11, 352, 224, 192⟩, ⟨12, 384, 256, 224⟩, ⟨13, 416, 320, 256⟩,
   ⟨14, 448, 384, 320⟩]

/-- SRATE_TABLE, index to Hz; index 3 has no entry (41_tables.md R122). -/
def srateTable : List (Nat × Nat) := [(0, 44100), (1, 48000), (2, 32000)]

/-- The table of 41_tables.md R124: kbps, then the frame size at 32000, 44100 and 48000 Hz. -/
def frameSizeRows : List (Nat × Nat × Nat × Nat) :=
  [(32, 144, 104, 96), (40, 180, 130, 120), (48, 216, 156, 144), (56, 252, 182, 168), (64, 288, 208, 192), (80, 360, 261, 240),
   (96, 432, 313, 288), (112, 504, 365, 336), (128, 576, 417, 384), (160, 720, 522, 480), (192, 864, 626, 576),
   (224, 1008, 731, 672), (256, 1152, 835, 768), (320, 1440, 1044, 960)]

/-- FRAME_SIZE_TABLE: (kbps, Hz) to bytes, without padding (41_tables.md R124, R125; log 12). -/
def frameSizeTable : List ((Nat × Nat) × Nat) :=
  frameSizeRows.flatMap fun (kbps, at32000, at44100, at48000) =>
    [((kbps, 32000), at32000), ((kbps, 44100), at44100), ((kbps, 48000), at48000)]

/-- The parameters MHRP has (00_scope.md R9; log 11). -/
def mhrp : Params where
  bitrateTable := bitrateTable
  frameSizeTable := frameSizeTable
  freeReject := []
  siLayout := .doc

/-! ## Lookups -/

/-- A row's kbps in a layer; no table row is keyed by the reserved layer (41_tables.md R120, R121). -/
def bitrateEntry (row : BitrateRow) : Layer → Option Nat
  | .reserved => none
  | .l1 => some row.l1
  | .l2 => some row.l2
  | .l3 => some row.l3

/-- `BITRATE_TABLE[L][i]`, or absent. -/
def bitrateAt (p : Params) (l : Layer) (i : Nat) : Option Nat :=
  (p.bitrateTable.find? fun row => row.index == i).bind fun row => bitrateEntry row l

/-- A table entry, or the failure of its absence: "a distinguishable failure, not a default value" (41_tables.md R130). -/
def entryOr (e : Failure) : Option Nat → Except Failure Nat
  | some n => .ok n
  | none => .error e

/-- `br_lookup(L, i)` (41_tables.md R123). -/
def brLookup (p : Params) (l : Layer) (i : Nat) : Except Failure Nat :=
  if i = 15 then .error .invalidBitrate
  else if i = 0 then
    if l ∈ p.freeReject then .error .invalidBitrate else .ok 0
  else entryOr .invalidBitrate (bitrateAt p l i)

/-- `fs_lookup(kbps, hz)` (41_tables.md R125); padding is not added. -/
def fsLookup (p : Params) (kbps hz : Nat) : Except Failure Nat :=
  entryOr .invalidBitrate (p.frameSizeTable.lookup (kbps, hz))

/-- `sr_lookup(i)` (41_tables.md R126). -/
def srLookup (i : Nat) : Except Failure Nat := entryOr .invalidSamplingRate (srateTable.lookup i)

/-- `layer_decode`, shared by PARSE_HDR and LUT_BITRATE (42_header.md R153). -/
def layerDecode : Nat → Except Failure Layer
  | 1 => .ok .l3
  | 2 => .ok .l2
  | 3 => .ok .l1
  | _ => .error .unsupportedLayer

end Sys2Proof.Machine
end

