-- ==== Sys2Proof/Machine/Header.lean ====
section
/-! DEFINITION. PARSE_HDR, the frame header parser (42_header.md R150 to R168). -/

namespace Sys2Proof.Machine

/-- A decoded frame header (42_header.md R165, 10_state.md R33 to R35). -/
structure FrameHeader where
  version : Version
  layer : Layer
  hasCrc : Bool
  hasPadding : Bool
  mode : ChannelMode
  intensityStereo : Bool
  msStereo : Bool
  isCopyrighted : Bool
  isOriginal : Bool
  /-- The raw 2-bit code (42_header.md R162). -/
  emphasis : BitVec 2
  bitrateKbps : Nat
  samplingRateHz : Nat
  /-- Without the padding byte (41_tables.md R125). -/
  frameSizeBytes : Nat
  deriving DecidableEq, Repr

/-- The output code of a version (00_scope.md R15). -/
def versionCode : Version → Nat
  | .v1 => 0
  | .v2 => 1
  | .v2_5 => 2

/-- The output code of a layer (00_scope.md R15). -/
def layerCode : Layer → Nat
  | .reserved => 0
  | .l1 => 1
  | .l2 => 2
  | .l3 => 3

/-- Step 2: the version code (42_header.md R152). -/
def versionDecode : Nat → Except Failure Version
  | 0 => .ok .v2_5
  | 2 => .ok .v2
  | 3 => .ok .v1
  | _ => .error .unsupportedVersion

/-- Step 1: the sync pattern (42_header.md R151). -/
def syncCheck (B : List Byte) : Except Failure Unit :=
  if hdrSync.num B = 0x7FF then .ok () else .error .syncNotFound

/-- The eight steps, in SRC's order; the first that fails is reported (42_header.md R151 to R163, R166). -/
def parseFrameHeader (p : Params) (B : List Byte) : Except Failure FrameHeader := do
  syncCheck B
  let version ← versionDecode (hdrVersion.num B)
  let layer ← layerDecode (hdrLayer.num B)
  let kbps ← brLookup p layer (hdrBitrate.num B)
  let hz ← srLookup (hdrSampling.num B)
  let size ← fsLookup p kbps hz
  return {
    version := version
    layer := layer
    hasCrc := !hdrProtection.flag B
    hasPadding := hdrPadding.flag B
    mode := ChannelMode.ofCode (hdrMode.num B)
    intensityStereo := hdrIntensity.flag B
    msStereo := hdrMsStereo.flag B
    isCopyrighted := hdrCopyright.flag B
    isOriginal := hdrOriginal.flag B
    emphasis := hdrEmphasis.val B
    bitrateKbps := kbps
    samplingRateHz := hz
    frameSizeBytes := size }

/-- HDR0 (10_state.md R33). -/
def FrameHeader.hdr0 (h : FrameHeader) : Word :=
  pack [(0, versionCode h.version), (2, layerCode h.layer), (4, h.hasCrc.toNat), (5, h.hasPadding.toNat), (6, h.mode.code),
    (8, h.intensityStereo.toNat), (9, h.msStereo.toNat), (10, h.isCopyrighted.toNat), (11, h.isOriginal.toNat),
    (12, h.emphasis.toNat)]

/-- HDR1 (10_state.md R34). -/
def FrameHeader.hdr1 (h : FrameHeader) : Word :=
  pack [(0, h.samplingRateHz % 2 ^ 16), (16, h.bitrateKbps % 2 ^ 9)]

/-- HDR2 (10_state.md R35). -/
def FrameHeader.hdr2 (h : FrameHeader) : Word := pack [(0, h.frameSizeBytes % 2 ^ 16)]

/-- The result group HDR of a decoded header. -/
def FrameHeader.result (h : FrameHeader) : Result := .hdr h.hdr0 h.hdr1 h.hdr2

/-- PARSE_HDR's outcome on an input of declared length `n`; the length is checked before step 1 (42_header.md R150, R165). -/
def runParseHdr (p : Params) (n : Nat) (B : List Byte) : Except Failure Result :=
  if n = 4 then (parseFrameHeader p B).map FrameHeader.result else .error .contractViolation

/-- PARSE_HDR: decode a frame header (42_header.md R165). -/
def execParseHdr (s : State) : Host.Outcome State Fault Refusal :=
  finish .hdr (runParseHdr mhrp s.inputLength s.inputBytes) s

end Sys2Proof.Machine
end

