-- ==== Sys2Proof/Machine/Lut.lean ====
section
/-! DEFINITION. LUT_BITRATE, LUT_SRATE and LUT_FSIZE (41_tables.md R127 to R129). They read neither ILEN nor IBUF. -/

namespace Sys2Proof.Machine

/-- `LUTR.VALUE <- zext_16(v)` (41_tables.md R127 to R129, 10_state.md R32). -/
def lutrOf (v : Nat) : Result := .lut (pack [(0, v % 2 ^ 16)])

/-- LUT_BITRATE's outcome: the layer is decoded before the index is looked up (41_tables.md R127). -/
def runLutBitrate (p : Params) (index layer : Nat) : Except Failure Result :=
  match layerDecode layer with
  | .error e => .error e
  | .ok l => (brLookup p l index).map lutrOf

/-- LUT_SRATE's outcome (41_tables.md R128). -/
def runLutSrate (index : Nat) : Except Failure Result := (srLookup index).map lutrOf

/-- LUT_FSIZE's outcome (41_tables.md R129). -/
def runLutFsize (p : Params) (kbps hz : Nat) : Except Failure Result := (fsLookup p kbps hz).map lutrOf

/-- LUT_BITRATE: look up the bitrate table (41_tables.md R127). -/
def execLutBitrate (index layer : Nat) (s : State) : Host.Outcome State Fault Refusal :=
  finish .lut (runLutBitrate mhrp index layer) s

/-- LUT_SRATE: look up the sampling-frequency table (41_tables.md R128). -/
def execLutSrate (index : Nat) (s : State) : Host.Outcome State Fault Refusal :=
  finish .lut (runLutSrate index) s

/-- LUT_FSIZE: look up the frame-size table (41_tables.md R129). -/
def execLutFsize (kbps hz : Nat) (s : State) : Host.Outcome State Fault Refusal :=
  finish .lut (runLutFsize mhrp kbps hz) s

end Sys2Proof.Machine
end

