-- ==== Sys2Proof/Machine/SideInfo.lean ====
section
/-! DEFINITION. PARSE_SI, the side information parser (43_sideinfo.md R190 to R197). -/

namespace Sys2Proof.Machine

/-- `scale_factor_selection`, with the width its layout gives it: a tagged union (43_sideinfo.md R193, R194, R197). -/
inductive ScaleSelection where
  | mono (v : BitVec 4)
  | stereoDoc (v : BitVec 6)
  | stereoIso (v : BitVec 8)
  deriving DecidableEq, Repr

/-- Decoded side information (43_sideinfo.md R196). -/
structure SideInfo where
  mainDataBegin : BitVec 9
  selection : ScaleSelection
  deriving DecidableEq, Repr

/-- The block length a channel mode requires (43_sideinfo.md R190). -/
def sideInfoLength : ChannelMode → Nat
  | .stereo => 32
  | .jointStereo => 32
  | .dualMonaural => 32
  | .singleChannel => 17

/-- `scale_factor_selection` of a one-channel block (43_sideinfo.md R193, R194). -/
def monoSelection (layout : SiLayout) (B : List Byte) : ScaleSelection :=
  match layout with
  | .doc => .mono (siDocMono.val B)
  | .iso => .mono (siIsoMono.val B)

/-- `scale_factor_selection` of a two-channel block (43_sideinfo.md R193, R194). -/
def stereoSelection (layout : SiLayout) (B : List Byte) : ScaleSelection :=
  match layout with
  | .doc => .stereoDoc (siDocStereo.val B)
  | .iso => .stereoIso (siIsoStereo.val B)

/-- The fields of a block of the right length; no range check is made (43_sideinfo.md R192 to R195). -/
def parseSideInfo (layout : SiLayout) (mode : ChannelMode) (B : List Byte) : SideInfo where
  mainDataBegin := siMainDataBegin.val B
  selection :=
    match mode with
    | .singleChannel => monoSelection layout B
    | .stereo => stereoSelection layout B
    | .jointStereo => stereoSelection layout B
    | .dualMonaural => stereoSelection layout B

/-- SI0.SCFSI: the selection zero-extended (10_state.md R36, 43_sideinfo.md R197). -/
def ScaleSelection.scfsi : ScaleSelection → Nat
  | .mono v => v.toNat
  | .stereoDoc v => v.toNat
  | .stereoIso v => v.toNat

/-- SI0.STEREO, the union's tag (10_state.md R36, 43_sideinfo.md R197). -/
def ScaleSelection.stereo : ScaleSelection → Nat
  | .mono _ => 0
  | .stereoDoc _ => 1
  | .stereoIso _ => 1

/-- SI0 (10_state.md R36). -/
def SideInfo.si0 (i : SideInfo) : Word :=
  pack [(0, i.mainDataBegin.toNat), (16, i.selection.scfsi), (24, i.selection.stereo)]

/-- PARSE_SI's outcome on an input of declared length `n` (43_sideinfo.md R191, R196). -/
def runParseSi (p : Params) (mode : ChannelMode) (n : Nat) (B : List Byte) : Except Failure Result :=
  if n = sideInfoLength mode then .ok (.si (parseSideInfo p.siLayout mode B).si0) else .error .contractViolation

/-- PARSE_SI: decode the stream-level side-information fields (43_sideinfo.md R196). -/
def execParseSi (mode : ChannelMode) (s : State) : Host.Outcome State Fault Refusal :=
  finish .si (runParseSi mhrp mode s.inputLength s.inputBytes) s

end Sys2Proof.Machine
end

