-- ==== Sys2Proof/Machine/Dispatch.lean ====
section
/-! DEFINITION. exec: the completion of each legal command (10_state.md R45, 30_encoding.md R81), one arm a constructor. -/

namespace Sys2Proof.Machine

def exec (i : Instr) (s : State) : Host.Outcome State Fault Refusal :=
  match i with
  | .extract offset width => Sys2Proof.Machine.execExtract offset width s
  | .parseHdr => Sys2Proof.Machine.execParseHdr s
  | .parseSi mode => Sys2Proof.Machine.execParseSi mode s
  | .parseCh => Sys2Proof.Machine.execParseCh s
  | .lutBitrate index layer => Sys2Proof.Machine.execLutBitrate index layer s
  | .lutSrate index => Sys2Proof.Machine.execLutSrate index s
  | .lutFsize kbps hz => Sys2Proof.Machine.execLutFsize kbps hz s

end Sys2Proof.Machine
end

