-- ==== Sys2Proof/Machine/Engine.lean ====
section
/-! DEFINITION. The engine agent: its one step completes the latched command (10_state.md R22, R45). -/

namespace Sys2Proof.Machine

/-- The result group of a command (10_state.md R30). -/
def groupOf : Instr → Group
  | .extract _ _ => .ext
  | .parseHdr => .hdr
  | .parseSi _ => .si
  | .parseCh => .ch
  | .lutBitrate _ _ => .lut
  | .lutSrate _ => .lut
  | .lutFsize _ _ => .lut

/-- The outcome of a legal command, for any parameters, from the input's declared length and its bytes (10_state.md R45). -/
def runInstr (p : Params) (n : Nat) (B : List Byte) : Instr → Except Failure Result
  | .extract offset width => runExtract offset width n B
  | .parseHdr => runParseHdr p n B
  | .parseSi mode => runParseSi p mode n B
  | .parseCh => runParseCh n B
  | .lutBitrate index layer => runLutBitrate p index layer
  | .lutSrate index => runLutSrate index
  | .lutFsize kbps hz => runLutFsize p kbps hz

/-- `Run(LCMD, ILEN, IBUF)`, "a total, deterministic function" of them and of the parameters (10_state.md R45, 00_scope.md R9). -/
def runCommand (p : Params) (w : Word) (n : Nat) (B : List Byte) : Except Failure Result :=
  match decode w with
  | .ok i => runInstr p n B i
  | .error _ => .error .illegalCommand

/-- The completion of the command in LCMD on an MHRP with the parameters `p` (10_state.md R45). `engineStep` is this for MHRP's own
parameters; claims about other ones, such as the ISO layout, may be stated of it. -/
def State.complete (p : Params) (s : State) : State :=
  match runCommand p s.lcmd s.inputLength s.inputBytes with
  | .ok r => s.completeOk r
  | .error e => s.completeFail ((decode s.lcmd).toOption.map groupOf) e

/-- A word that is no command completes with IllegalCommand and writes no group (30_encoding.md R90). -/
def State.completeIllegal (s : State) : State := s.completeFail none .illegalCommand

/-- The engine's step. It is enabled exactly when BUSY = 1 (10_state.md R22); a turn it gets while idle passes (DESIGN CHOICE, safe, log 2). -/
def engineStep (s : State) : Host.Outcome State Fault Refusal :=
  if s.busy then
    match decode s.lcmd with
    | .ok i => exec i s
    | .error _ => .next s.completeIllegal
  else .next s

end Sys2Proof.Machine
end

