-- ==== Sys2Proof/Machine/Bus.lean ====
section
/-! DEFINITION. The register window and the two host bus transactions (10_state.md R23 to R44, 20_memory.md R60 to R67). -/

namespace Sys2Proof.Machine

/-- The registers of the window (10_state.md R23). -/
inductive Reg where
  | cmd | status | ilen | extr | lutr | hdr0 | hdr1 | hdr2 | si0 | ch0 | ch1 | ch2 | ch3
  | ibuf (k : Fin 8)
  deriving DecidableEq, Repr

/-- The register map: offsets not listed are unmapped (10_state.md R23). -/
def registerMap : List (Nat × Reg) :=
  [(0x00, .cmd), (0x04, .status), (0x08, .ilen), (0x0C, .extr), (0x10, .lutr), (0x14, .hdr0), (0x18, .hdr1), (0x1C, .hdr2),
   (0x20, .si0), (0x24, .ch0), (0x28, .ch1), (0x2C, .ch2), (0x30, .ch3), (0x40, .ibuf 0), (0x44, .ibuf 1), (0x48, .ibuf 2),
   (0x4C, .ibuf 3), (0x50, .ibuf 4), (0x54, .ibuf 5), (0x58, .ibuf 6), (0x5C, .ibuf 7)]

/-- The bus address of an offset of the window (00_scope.md R14, 20_memory.md R61; log 10). -/
def busAddress (off : Nat) : Nat := Config.base + off

/-- The register a transaction reaches: none where it is misaligned, of a size other than 4 bytes, or at an unmapped offset
(20_memory.md R65, R66). -/
def regAt (off size : Nat) : Option Reg :=
  if off % 4 = 0 ∧ size = 4 then registerMap.lookup off else none

/-- A register as a bus read returns it (10_state.md R26 to R40, 20_memory.md R62). Reading has no side effect (R67). -/
def State.readReg (s : State) : Reg → Word
  | .cmd => s.lcmd
  | .status => s.statusWord
  | .ilen => pack [(0, s.ilen.toNat)]
  | .extr => s.extr
  | .lutr => s.lutr
  | .hdr0 => s.hdr0
  | .hdr1 => s.hdr1
  | .hdr2 => s.hdr2
  | .si0 => s.si0
  | .ch0 => s.ch0
  | .ch1 => s.ch1
  | .ch2 => s.ch2
  | .ch3 => s.ch3
  | .ibuf k => s.ibuf.readWord k.val

/-- `MemRead(off, size)` (20_memory.md R60). -/
def memRead (s : State) (off size : Nat) : BusResp :=
  match regAt off size with
  | some r => .data (s.readReg r)
  | none => .busError

/-- A write that is taken only while idle; while BUSY = 1 it is dropped and sets OVERRUN (10_state.md R42, R43). -/
def State.whenIdle (s : State) (taken : State) : State := if s.busy then s.markOverrun else taken

/-- A bus write to a register: the state after it, and its answer (10_state.md R26 to R29, R41 to R44). -/
def State.writeReg (s : State) (v : Word) : Reg → State × BusResp
  | .cmd => (s.whenIdle (s.accept v), .written)
  | .status => (s.writeStatus v, .written)
  | .ilen => (s.whenIdle (s.setIlen v), .written)
  | .ibuf k => (s.whenIdle (s.setIbuf (s.ibuf.writeWord k.val v)), .written)
  | .extr => (s, .busError)
  | .lutr => (s, .busError)
  | .hdr0 => (s, .busError)
  | .hdr1 => (s, .busError)
  | .hdr2 => (s, .busError)
  | .si0 => (s, .busError)
  | .ch0 => (s, .busError)
  | .ch1 => (s, .busError)
  | .ch2 => (s, .busError)
  | .ch3 => (s, .busError)

/-- `MemWrite(off, size, v)`: the state after it, and its answer (20_memory.md R60). -/
def memWrite (s : State) (off size : Nat) (v : Word) : State × BusResp :=
  match regAt off size with
  | some r => s.writeReg v r
  | none => (s, .busError)

/-- A host transaction: one atomic step, after which the host holds its answer (20_memory.md R60, R67). A bus error is an
answer; it stops nothing in MHRP (DESIGN CHOICE, log 6). -/
def transact (s : State) : Txn → State
  | .read off size => s.record (memRead s off size)
  | .write off size v => (memWrite s off size v).1.record (memWrite s off size v).2

end Sys2Proof.Machine
end

