-- ==== Sys2Proof/Machine/HostAgent.lean ====
section
/-! DEFINITION. The host agent: one host operation a step, and the host program notation of 30_encoding.md R96. -/

namespace Sys2Proof.Machine

/-! ## Notation (30_encoding.md R96) -/

/-- `WR off, v`. -/
def HostOp.wr (off : Nat) (v : Word) : HostOp := .txn (.write off 4 v)

/-- `RD off`. -/
def HostOp.rd (off : Nat) : HostOp := .txn (.read off 4)

/-- `SUBMIT`: write the command word, then WAIT. -/
def submit (w : Word) : List HostOp := [HostOp.wr 0x00 w, .wait]

/-- Byte `4k + j` of a byte list as part of `IBUF_Wk`; a missing byte is 0. -/
def loadWord (bytes : List Byte) (k : Nat) : Word :=
  pack [(24, (bytes.getD (4 * k) 0).toNat), (16, (bytes.getD (4 * k + 1) 0).toNat), (8, (bytes.getD (4 * k + 2) 0).toNat),
    (0, (bytes.getD (4 * k + 3) 0).toNat)]

/-- `LOAD n, b0 .. b(n-1)`: the IBUF words that cover the bytes, then ILEN. -/
def load (bytes : List Byte) : List HostOp :=
  (List.range ((bytes.length + 3) / 4)).map (fun k => HostOp.wr (0x40 + 4 * k) (loadWord bytes k)) ++
    [HostOp.wr 0x08 (BitVec.ofNat 32 bytes.length)]

/-- `CLEAR_OVERRUN`. -/
def clearOverrun : List HostOp := [HostOp.wr 0x04 0x00010000#32]

/-- `SUBMIT PARSE_SI h[7:6]` for a word `h` read from HDR0. -/
def submitSiOf (h : Word) : List HostOp := submit (encode (.parseSi (ChannelMode.ofCode (slice h 7 6))))

/-! ## The host's step -/

/-- One step of the host: the next operation of its program, one bus transaction (10_state.md R22, 20_memory.md R60). `WAIT`
stays in place as long as its read finds BUSY = 1. A host with nothing left to do has no step; its turn passes (DESIGN CHOICE, safe, log 2). -/
def hostStep (s : State) : State :=
  match s.hostProg with
  | [] => s
  | .txn t :: ops => transact (s.setHostProg ops) t
  | .wait :: ops => transact (s.setHostProg (if s.busy then .wait :: ops else ops)) (.read 0x04 4)
  | .siFromHdr :: ops => transact (s.setHostProg (submitSiOf s.hdr0 ++ ops)) (.read 0x14 4)

end Sys2Proof.Machine
end

