-- ==== Sys2Proof/Machine/Step.lean ====
section
/-! DEFINITION. The step: one atomic step of the agent whose turn it is (10_state.md R22, 20_memory.md R71). -/

namespace Sys2Proof.Machine

/-- One step of a run. `turns` says who moves: any interleaving of host, engine and reset is some list of turns (10_state.md
R22, 70_reset_and_hazards.md R280). With no turn left, the engine moves if it is enabled, else the host (DESIGN CHOICE, log 1). -/
def step (s : State) : Host.Outcome State Fault Refusal :=
  match s.turns with
  | .engine :: ts => engineStep (s.setTurns ts)
  | .host :: ts => .next (hostStep (s.setTurns ts))
  | .reset :: ts => .next (s.setTurns ts).resetEvent
  | [] => if s.busy then engineStep s else .next (hostStep s)

/-- The turns with the engine first; an empty list already lets a busy engine move. -/
def engineFirst : List Turn → List Turn
  | [] => []
  | ts => .engine :: ts

/-- `s` with the command of a word latched and about to be completed: LCMD, BUSY and the status bits as the acceptance of a
write of that word to CMD leaves them (10_state.md R41), and the engine to move next (DESIGN CHOICE, log 5). -/
def State.withFetchWord (s : State) (nbits w : Nat) : State :=
  (s.accept (tableWord nbits w)).setTurns (engineFirst s.turns)

end Sys2Proof.Machine
end

