-- ==== Sys2Proof/Machine/Assembler.lean ====
section
/-! DEFINITION. The assembler notation of commands (30_encoding.md R95), on a line's characters (log 15). -/

namespace Sys2Proof.Machine

/-- An operand as written: a number, or one of the mode and layer names. -/
inductive AsmOperand where
  | num (n : Nat)
  | name (s : List Char)
  deriving DecidableEq, Repr

/-! ## Characters to tokens -/

/-- A digit's value in a base. -/
def digitValue (base : Nat) (c : Char) : Option Nat :=
  let n := c.toNat
  let v :=
    if 48 ≤ n ∧ n ≤ 57 then some (n - 48)
    else if 97 ≤ n ∧ n ≤ 102 then some (n - 87)
    else if 65 ≤ n ∧ n ≤ 70 then some (n - 55)
    else none
  v.filter (· < base)

/-- A run of digits, most significant first, continuing the value `acc`. -/
def digitsFrom (base acc : Nat) : List Char → Option Nat
  | [] => some acc
  | c :: cs =>
    match digitValue base c with
    | some d => digitsFrom base (base * acc + d) cs
    | none => none

/-- An operand's characters: `0x` hex, decimal, or a name. -/
def readOperand : List Char → Option AsmOperand
  | [] => none
  | '0' :: 'x' :: c :: cs => (digitsFrom 16 0 (c :: cs)).map .num
  | c :: cs =>
    if (digitValue 10 c).isSome then (digitsFrom 10 0 (c :: cs)).map .num else some (.name (c :: cs))

/-- The characters without blanks at either end. -/
def trimBlanks (cs : List Char) : List Char :=
  ((cs.dropWhile (· == ' ')).reverse.dropWhile (· == ' ')).reverse

/-- The operands of a comma list; no operand at all where nothing but blanks stands. -/
def readOperands (cs : List Char) : Option (List AsmOperand) :=
  if trimBlanks cs = [] then some [] else (cs.splitOn ',').mapM fun part => readOperand (trimBlanks part)

/-! ## Tokens to commands -/

/-- A mode operand: 0..3 or a mode's name (30_encoding.md R95). -/
def modeOperand : AsmOperand → Option ChannelMode
  | .num n => if n < 4 then some (ChannelMode.ofCode n) else none
  | .name s =>
    if s = "STEREO".toList then some .stereo
    else if s = "JOINT".toList then some .jointStereo
    else if s = "DUAL".toList then some .dualMonaural
    else if s = "MONO".toList then some .singleChannel
    else none

/-- A layer code operand: a number, or L3 (=1), L2 (=2), L1 (=3) (30_encoding.md R95). -/
def layerOperand : AsmOperand → Option Nat
  | .num n => some n
  | .name s =>
    if s = "L3".toList then some 1
    else if s = "L2".toList then some 2
    else if s = "L1".toList then some 3
    else none

/-- The command of a mnemonic and its operands, whatever their size (30_encoding.md R95). -/
def commandOf (mnemonic : List Char) (ops : List AsmOperand) : Option Instr :=
  if mnemonic = "EXTRACT".toList then
    match ops with
    | [.num offset, .num width] => some (.extract offset width)
    | _ => none
  else if mnemonic = "PARSE_HDR".toList then
    if ops = [] then some .parseHdr else none
  else if mnemonic = "PARSE_SI".toList then
    match ops with
    | [mode] => (modeOperand mode).map .parseSi
    | _ => none
  else if mnemonic = "PARSE_CH".toList then
    if ops = [] then some .parseCh else none
  else if mnemonic = "LUT_BITRATE".toList then
    match ops with
    | [.num index, layer] => (layerOperand layer).map (.lutBitrate index)
    | _ => none
  else if mnemonic = "LUT_SRATE".toList then
    match ops with
    | [.num index] => some (.lutSrate index)
    | _ => none
  else if mnemonic = "LUT_FSIZE".toList then
    match ops with
    | [.num kbps, .num hz] => some (.lutFsize kbps hz)
    | _ => none
  else none

/-- An assembler refuses an operand that does not fit its field, and assembles every operand that fits (30_encoding.md R95). -/
def assembleCommand (mnemonic : List Char) (ops : List AsmOperand) : Option Word :=
  (commandOf mnemonic ops).bind fun i => if i.wf then some (encode i) else none

/-- The word of one line, `MNEMONIC operand, operand ; comment` (30_encoding.md R95). -/
def assembleLine (line : List Char) : Option Word :=
  let code := trimBlanks (line.takeWhile (· != ';'))
  (readOperands (code.dropWhile (· != ' '))).bind (assembleCommand (code.takeWhile (· != ' ')))

end Sys2Proof.Machine
end

