-- ==== Sys2Proof/Safety.lean ====
section
/-! DEFINITION. What counts as a safe run of a host program, and the invariant of the machine. -/

namespace Sys2Proof.Machine

/-! ## Host-program faults and hazards -/

/-- The fault a host program commits in the step from `s` to `t`, if any: a bus error answered (20_memory.md R65, R66), or a
completion with ContractViolation or IllegalCommand (60_exceptions.md R253; 93_implementation_defined.md U17, U18, U21). -/
def hostFault (s t : State) : Option Fault :=
  if t.trace = .busError :: s.trace then some .busError
  else if s.busy ∧ ¬ t.busy ∧ t.done then
    if t.errcode = Failure.contractViolation.code then some .contractViolation
    else if t.errcode = Failure.illegalCommand.code then some .illegalCommand
    else none
  else none

/-- `step`, stopping at the first host-program fault: "a model treats a completion with either code as a fault of the host
program" (60_exceptions.md R253). Claims about a host program may be stated of it; claims about MHRP are stated of `step`. -/
def guardedStep (s : State) : Host.Outcome State Fault Refusal :=
  match step s with
  | .next t =>
    match hostFault s t with
    | some f => .fault f
    | none => .next t
  | .fault f => .fault f
  | .refused r => .refused r

/-- A run so far is free of the write-while-busy hazard (70_reset_and_hazards.md R285). -/
def State.hazardFree (s : State) : Bool := !s.overrun

/-- The host may rely on the result registers of the last command: BUSY = 0, DONE = 1 and ERR = 0
(70_reset_and_hazards.md R284, 20_memory.md R72). -/
def State.resultsReadable (s : State) : Bool := !s.busy && s.done && !s.err

/-! ## The invariant -/

/-- STATUS tells the truth about the command in LCMD: after a completion, a legal command's VALID bit is set exactly when it
did not fail, and only an illegal word has code 9 (10_state.md R28, R30, R45; 30_encoding.md R90). -/
def State.statusMatchesCommand (s : State) : Bool :=
  match decode s.lcmd with
  | .ok i => (s.groupValid (groupOf i) == !s.err) && decide (s.errcode ≠ Failure.illegalCommand.code)
  | .error _ => s.err && decide (s.errcode = Failure.illegalCommand.code)

/-- What the registers of a VALID group satisfy. -/
def Result.Sound : Result → Prop
  /- Reserved bits read 0 (10_state.md R31, R50). -/
  | .ext extr => slice extr 31 16 = 0
  /- Reserved bits read 0 (10_state.md R32, R50). -/
  | .lut lutr => slice lutr 31 16 = 0
  /- Reserved bits read 0; VERSION 3 and LAYER 0 are never written (10_state.md R33 to R35, R50); the frame size is the table's
  for the reported rates (42_header.md R163). -/
  | .hdr hdr0 hdr1 hdr2 =>
    slice hdr0 31 14 = 0 ∧ slice hdr1 31 25 = 0 ∧ slice hdr2 31 16 = 0 ∧ slice hdr0 1 0 ≠ 3 ∧ slice hdr0 3 2 ≠ 0 ∧
      fsLookup mhrp (slice hdr1 24 16) (slice hdr1 15 0) = .ok hdr2.toNat
  /- Reserved bits read 0 (10_state.md R36, R50); a one-channel selection is 4 bits wide, a two-channel one 6 under DOC
  (43_sideinfo.md R197). -/
  | .si si0 =>
    slice si0 15 9 = 0 ∧ slice si0 31 25 = 0 ∧ (slice si0 24 24 = 0 → slice si0 23 16 < 2 ^ 4) ∧ slice si0 23 16 < 2 ^ 6
  /- Reserved bits read 0 (10_state.md R37 to R40, R50); the inactive variant's register reads 0 (44_channel.md R219). -/
  | .ch ch0 ch1 ch2 ch3 =>
    slice ch0 31 29 = 0 ∧ slice ch1 31 8 = 0 ∧ slice ch2 31 22 = 0 ∧ slice ch3 31 21 = 0 ∧
      (slice ch1 7 7 = 0 → ch3 = 0#32) ∧ (slice ch1 7 7 = 1 → ch2 = 0#32)

/-- What every state from reset on satisfies, and every step keeps. -/
structure State.Inv (s : State) : Prop where
  /-- IBUF keeps its canonical form (log 13). -/
  ibufCanonical : s.ibuf.wf = true
  /-- While a command is in flight nothing of its completion shows (10_state.md R28, R41). -/
  busyIsClean : s.busy = true → s.done = false ∧ s.err = false ∧ s.errcode = 0#4
  /-- Only a completion reports a failure (10_state.md R28). -/
  errAfterCompletion : s.err = true → s.done = true
  /-- "ERRCODE: 0 when ERR = 0" (10_state.md R28), and a failure has a code. -/
  errHasCode : s.err = false ↔ s.errcode = 0#4
  /-- "reserved, never written": codes 7 and 10 to 15 (60_exceptions.md R250). -/
  codeIsNamed : s.err = true → ∃ e : Failure, s.errcode = e.code
  /-- After a completion STATUS is that of the command in LCMD. -/
  statusTruthful : s.done = true → s.statusMatchesCommand = true
  /-- A group whose VALID bit is 0 holds zeros (10_state.md R30, R51). -/
  invalidIsZero : ∀ g : Group, s.groupValid g = false → s.groupResult g = g.cleared
  /-- A group whose VALID bit is 1 holds a result that a command can write. -/
  validIsSound : ∀ g : Group, s.groupValid g = true → (s.groupResult g).Sound

end Sys2Proof.Machine
end

