-- ==== Sys2Proof/Certificates/Slice0/Obligations.lean ====
section
/-! DEFINITION. The statements about MHRP, for the provers. Values are said in the spec's own terms: a stream field is the sum of
40_bitfield.md R101 over the bits of IBUF, a register field is a slice of the register's bits, and the tables are written out
again from 41_tables.md. -/

namespace Sys2Proof.Claims

open Sys2Proof.Machine

/-! ## The spec's terms -/

/-- `v[hi:lo]` as a number (00_scope.md R12). -/
def fld (v : Word) (hi lo : Nat) : Nat := (v.extractLsb hi lo).toNat

/-- Stream bit `k` of a byte sequence (00_scope.md R11). -/
def bitOf (byte : Nat → Byte) (k : Nat) : Nat := (byte (k / 8)).toNat / 2 ^ (7 - k % 8) % 2

/-- `sum over j = 0 .. w-1 of bit(o + j) * 2^(w-1-j)` (40_bitfield.md R101). -/
def bitsSum (byte : Nat → Byte) (o w : Nat) : Nat := ∑ j ∈ Finset.range w, bitOf byte (o + j) * 2 ^ (w - 1 - j)

/-- The field at offset `o`, width `w` of the stream in IBUF. -/
def field (s : State) (o w : Nat) : Nat := bitsSum s.ibuf.read o w

/-- The columns of 41_tables.md R120 by layer code: `'11'` L1, `'10'` L2, `'01'` L3. -/
def kbpsColumn : Nat → List Nat
  | 3 => [32, 64, 96, 128, 160, 192, 224, 256, 288, 320, 352, 384, 416, 448]
  | 2 => [32, 48, 56, 64, 80, 96, 112, 128, 160, 192, 224, 256, 320, 384]
  | 1 => [32, 40, 48, 56, 64, 80, 96, 112, 128, 160, 192, 224, 256, 320]
  | _ => []

/-- The kbps of a layer code and an index; index 0 gives 0, index 15 nothing (41_tables.md R123 with the empty
FREE_REJECT_LAYERS). -/
def kbpsOf (layer index : Nat) : Option Nat := if index = 0 then some 0 else (kbpsColumn layer)[index - 1]?

/-- The Hz of a sampling-frequency index (41_tables.md R122). -/
def hzOf (index : Nat) : Option Nat := [44100, 48000, 32000][index]?

/-- The frame size of a pair (41_tables.md R124): the Layer III formula on the 42 keys, nothing elsewhere. -/
def frameSizeOf (kbps hz : Nat) : Option Nat :=
  if kbps ∈ kbpsColumn 1 ∧ hz ∈ [32000, 44100, 48000] then some (144000 * kbps / hz) else none

/-- The status bits of a successful completion (10_state.md R45). -/
def succeeded (s : State) : State := { s with busy := false, done := true, err := false, errcode := 0#4 }

/-- The status bits of a failed completion with a code (10_state.md R45, 60_exceptions.md R250). -/
def failedWith (s : State) (code : BitVec 4) : State := { s with busy := false, done := true, err := true, errcode := code }

/-- The registers of MHRP that no command writes, every byte of IBUF, and the MODEL'S own data of the agents (log 1, log 4). -/
def InputKept (s t : State) : Prop :=
  t.lcmd = s.lcmd ∧ t.ilen = s.ilen ∧ t.overrun = s.overrun ∧ (∀ a, t.ibuf.read a = s.ibuf.read a) ∧
    t.hostProg = s.hostProg ∧ t.turns = s.turns ∧ t.trace = s.trace ∧ t.draws = s.draws

/-- A group's registers and VALID bit are unchanged. -/
def GroupKept (g : Group) (s t : State) : Prop := t.groupResult g = s.groupResult g ∧ t.groupValid g = s.groupValid g

/-- The host moves in the next step: the MODEL'S list of turns says so (log 1). -/
def HostMoves (s : State) : Prop := s.turns.head? = some .host ∨ s.turns = [] ∧ s.busy = false

/-- The engine moves in the next step: the MODEL'S list of turns says so (log 1). -/
def EngineMoves (s : State) : Prop := s.turns.head? = some .engine ∨ s.turns = [] ∧ s.busy = true

/-- The reset input moves in the next step: the MODEL'S list of turns says so (log 1). -/
def ResetMoves (s : State) : Prop := s.turns.head? = some .reset

/-- The next host operation is a word write of `v` at `off`. -/
def NextWrite (s : State) (off : Nat) (v : Word) : Prop := ∃ ops, s.hostProg = .txn (.write off 4 v) :: ops

/-- The commands' preconditions on their input (40_bitfield.md R103, 42_header.md R150, 43_sideinfo.md R191, 44_channel.md R210). -/
def contractBroken (s : State) : Instr → Prop
  | .extract o w => 32 < s.ilen.toNat ∨ w = 0 ∨ 16 < w ∨ 8 * s.ilen.toNat < o + w
  | .parseHdr => s.ilen.toNat ≠ 4
  | .parseSi mode => s.ilen.toNat ≠ if mode = .singleChannel then 17 else 32
  | .parseCh => s.ilen.toNat ≠ 8
  | .lutBitrate _ _ => False
  | .lutSrate _ => False
  | .lutFsize _ _ => False

/-- The code PARSE_HDR completes with, 0 for success: the first failing step in SRC's order (42_header.md R166). -/
def headerCode (s : State) : BitVec 4 :=
  if s.ilen ≠ 4#6 then 8#4
  else if field s 0 11 ≠ 0x7FF then 1#4
  else if field s 11 2 = 1 then 2#4
  else if field s 13 2 = 0 then 3#4
  else
    match kbpsOf (field s 13 2) (field s 16 4) with
    | none => 4#4
    | some kbps =>
      match hzOf (field s 20 2) with
      | none => 5#4
      | some hz => if frameSizeOf kbps hz = none then 4#4 else 0#4

/-- The block type codes of 44_channel.md R217: Start 0, Short 1, Mixed 2, End 3. -/
def blockTypeOf (code mixed : Nat) : Nat := if code = 1 then 0 else if code = 3 then 3 else if mixed = 1 then 2 else 1

end Sys2Proof.Claims

section

open Sys2Proof Sys2Proof.Machine Sys2Proof.Claims

/-! ## Encoding -/

/-- Decoding the word of any well-formed command gives the command back (30_encoding.md R82 to R88). -/
def Obligations.DecodeOfEncodeIsIdentity : Prop :=
  ∀ i : Instr, i.wf = true → decode (encode i) = .ok i

/-- A word the decoder accepts is the word of the well-formed command it gives: no bit of a command word is dropped. -/
def Obligations.EncodeOfDecodeIsIdentity : Prop :=
  ∀ (w : Word) (i : Instr), decode w = .ok i → i.wf = true ∧ encode i = w

/-- The decoder selects a word's row of spec/opcode_table.json by mask and match, no word matches two rows, and a word that
matches none is refused (30_encoding.md R89). -/
def Obligations.DecoderFollowsOpcodeTable : Prop :=
  (∀ r ∈ opcodeRows, ∀ w : Word, w &&& r.mask = r.bits ↔ ∃ i, decode w = .ok i ∧ i.opcode = r.op) ∧
  (∀ r ∈ opcodeRows, ∀ r' ∈ opcodeRows, ∀ w : Word, w &&& r.mask = r.bits → w &&& r'.mask = r'.bits → r = r') ∧
  (∀ w : Word, (∀ r ∈ opcodeRows, w &&& r.mask ≠ r.bits) ↔ ∃ e, decode w = .error e)

/-- Words of the spec's own examples decode to the commands they stand for (95_test_vectors.md section 2). -/
def Obligations.SpecExampleWordsDecode : Prop :=
  decode 0x000020B1#32 = .ok (.extract 11 2) ∧ decode 0x00000002#32 = .ok .parseHdr ∧
  decode 0x00000033#32 = .ok (.parseSi .singleChannel) ∧ decode 0x00000004#32 = .ok .parseCh ∧
  decode 0x00000195#32 = .ok (.lutBitrate 9 1) ∧ decode 0x00000026#32 = .ok (.lutSrate 2) ∧
  decode 0x15888807#32 = .ok (.lutFsize 128 44100)

/-- "Every operand field is an unsigned integer taken as it stands in the word" (30_encoding.md R88). -/
def Obligations.OperandsAreWordFields : Prop :=
  ∀ (w : Word) (i : Instr), decode w = .ok i →
    match i with
    | .extract offset width => offset = fld w 11 4 ∧ width = fld w 16 12
    | .parseHdr => True
    | .parseSi mode => mode.code = fld w 5 4
    | .parseCh => True
    | .lutBitrate index layer => index = fld w 7 4 ∧ layer = fld w 9 8
    | .lutSrate index => index = fld w 5 4
    | .lutFsize kbps hz => kbps = fld w 12 4 ∧ hz = fld w 29 13

/-- 30_encoding.md R90: which words are illegal; an illegal word is accepted like any other and completes with IllegalCommand,
writing no result group; a word whose operand is out of range (WIDTH 0 or above 16, MODE not matching ILEN) is legal and completes
with the command's own error. -/
def Obligations.IllegalWords : Prop :=
  (∀ w : Word, (∃ e, decode w = .error e) ↔
    (fld w 3 0 = 0 ∨ 8 ≤ fld w 3 0) ∨ (fld w 3 0 = 1 ∧ fld w 31 17 ≠ 0) ∨ (fld w 3 0 = 2 ∧ fld w 31 4 ≠ 0) ∨
    (fld w 3 0 = 3 ∧ fld w 31 6 ≠ 0) ∨ (fld w 3 0 = 4 ∧ fld w 31 4 ≠ 0) ∨ (fld w 3 0 = 5 ∧ fld w 31 10 ≠ 0) ∨
    (fld w 3 0 = 6 ∧ fld w 31 6 ≠ 0) ∨ (fld w 3 0 = 7 ∧ fld w 31 30 ≠ 0)) ∧
  (∀ (s : State) (w : Word) (e : DecodeError), decode w = .error e → s.busy = false →
    memWrite s 0x00 4 w =
      ({ s with lcmd := w, busy := true, done := false, err := false, errcode := 0#4 }, .written)) ∧
  (∀ (s : State) (e : DecodeError), decode s.lcmd = .error e → s.busy = true → engineStep s = .next (failedWith s 9#4)) ∧
  (∀ (s : State) (offset width : Nat), width = 0 ∨ 16 < width → decode s.lcmd = .ok (.extract offset width) → s.busy = true →
    engineStep s = .next { failedWith s 8#4 with extr := 0#32, extValid := false }) ∧
  (∀ (s : State) (mode : ChannelMode), s.ilen.toNat ≠ (if mode = .singleChannel then 17 else 32) →
    decode s.lcmd = .ok (.parseSi mode) → s.busy = true →
    engineStep s = .next { failedWith s 8#4 with si0 := 0#32, siValid := false })

/-- An assembler refuses an operand that does not fit its field, and assembles every operand that fits, one the command will
reject among them (30_encoding.md R95); the operand names stand for the numbers R95 gives. -/
def Obligations.AssemblerChecksOperands : Prop :=
  (∀ o w : Nat, assembleCommand "EXTRACT".toList [.num o, .num w] =
    if o < 256 ∧ w < 32 then some (encode (.extract o w)) else none) ∧
  (∀ n : Nat, assembleCommand "PARSE_SI".toList [.num n] =
    if n < 4 then some (encode (.parseSi (ChannelMode.ofCode n))) else none) ∧
  (∀ i l : Nat, assembleCommand "LUT_BITRATE".toList [.num i, .num l] =
    if i < 16 ∧ l < 4 then some (encode (.lutBitrate i l)) else none) ∧
  (∀ i : Nat, assembleCommand "LUT_SRATE".toList [.num i] = if i < 4 then some (encode (.lutSrate i)) else none) ∧
  (∀ k z : Nat, assembleCommand "LUT_FSIZE".toList [.num k, .num z] =
    if k < 512 ∧ z < 131072 then some (encode (.lutFsize k z)) else none) ∧
  assembleCommand "PARSE_HDR".toList [] = some 0x00000002#32 ∧ assembleCommand "PARSE_CH".toList [] = some 0x00000004#32 ∧
  assembleCommand "PARSE_SI".toList [.name "STEREO".toList] = some 0x00000003#32 ∧
  assembleCommand "PARSE_SI".toList [.name "JOINT".toList] = some 0x00000013#32 ∧
  assembleCommand "PARSE_SI".toList [.name "DUAL".toList] = some 0x00000023#32 ∧
  assembleCommand "PARSE_SI".toList [.name "MONO".toList] = some 0x00000033#32 ∧
  (∀ i : Nat,
    assembleCommand "LUT_BITRATE".toList [.num i, .name "L3".toList] = assembleCommand "LUT_BITRATE".toList [.num i, .num 1] ∧
    assembleCommand "LUT_BITRATE".toList [.num i, .name "L2".toList] = assembleCommand "LUT_BITRATE".toList [.num i, .num 2] ∧
    assembleCommand "LUT_BITRATE".toList [.num i, .name "L1".toList] = assembleCommand "LUT_BITRATE".toList [.num i, .num 3])

/-! ## The bus -/

/-- 10_state.md R41: a write of any word to CMD while BUSY = 0 is accepted in one step, and no other state changes. -/
def Obligations.CommandAccepted : Prop :=
  ∀ (s : State) (w : Word), s.busy = false →
    memWrite s 0x00 4 w =
      ({ s with lcmd := w, busy := true, done := false, err := false, errcode := 0#4 }, .written)

/-- 10_state.md R42: a write to CMD while BUSY = 1 is dropped and sets OVERRUN, without a bus error. -/
def Obligations.CommandWhileBusyDropped : Prop :=
  ∀ (s : State) (w : Word), s.busy = true → memWrite s 0x00 4 w = ({ s with overrun := true }, .written)

/-- 10_state.md R43: writes to ILEN and IBUF while BUSY = 1 are dropped and set OVERRUN, without a bus error; so IBUF and ILEN
cannot change between acceptance and completion: no step but a reset changes them while busy, the completing step among them.
Who moves is the MODEL'S list of turns (log 1). -/
def Obligations.InputWriteWhileBusyDropped : Prop :=
  (∀ (s : State) (v : Word), s.busy = true → memWrite s 0x08 4 v = ({ s with overrun := true }, .written)) ∧
  (∀ (s : State) (k : Fin 8) (v : Word), s.busy = true →
    memWrite s (0x40 + 4 * k.val) 4 v = ({ s with overrun := true }, .written)) ∧
  (∀ s t : State, s.busy = true → ¬ ResetMoves s → step s = .next t →
    t.ibuf = s.ibuf ∧ t.ilen = s.ilen ∧ t.inputBytes = s.inputBytes)

/-- 10_state.md R44: a write to a read-only register has no effect and returns a bus error; a write to ILEN or IBUF while BUSY = 0
stores the value as R24, R26 and the lanes of 20_memory.md R62 say. -/
def Obligations.ReadOnlyAndStoringWrites : Prop :=
  (∀ (s : State) (off : Nat) (v : Word),
    off ∈ [0x0C, 0x10, 0x14, 0x18, 0x1C, 0x20, 0x24, 0x28, 0x2C, 0x30] → memWrite s off 4 v = (s, .busError)) ∧
  (∀ (s : State) (v : Word), s.busy = false →
    memWrite s 0x08 4 v = ({ s with ilen := v.extractLsb 5 0 }, .written)) ∧
  (∀ (s : State) (k : Fin 8) (v : Word), s.busy = false →
    ∃ m, memWrite s (0x40 + 4 * k.val) 4 v = ({ s with ibuf := m }, .written) ∧
      (s.ibuf.wf = true → m.read (4 * k.val) = v.extractLsb 31 24 ∧ m.read (4 * k.val + 1) = v.extractLsb 23 16 ∧
        m.read (4 * k.val + 2) = v.extractLsb 15 8 ∧ m.read (4 * k.val + 3) = v.extractLsb 7 0 ∧
        ∀ a, a / 4 ≠ k.val → m.read a = s.ibuf.read a))

/-- 10_state.md R29: a write of `v` to STATUS clears OVERRUN when `v[16]` = 1 and has no other effect, in any state. -/
def Obligations.StatusWriteClearsOverrun : Prop :=
  ∀ (s : State) (v : Word),
    memWrite s 0x04 4 v = ({ s with overrun := if fld v 16 16 = 1 then false else s.overrun }, .written)

/-- 20_memory.md R65, R66: a misaligned offset, a size other than 4 bytes, and an unmapped offset of the window return a bus error,
and so does a write to a read-only register; none changes any state. -/
def Obligations.BusErrorsChangeNothing : Prop :=
  (∀ (s : State) (off size : Nat) (v : Word), off % 4 ≠ 0 ∨ size ≠ 4 →
    memRead s off size = .busError ∧ memWrite s off size v = (s, .busError)) ∧
  (∀ (s : State) (off : Nat) (v : Word), off ∈ [0x34, 0x38, 0x3C, 0x60, 0x64, 0x68, 0x6C, 0x70, 0x74, 0x78, 0x7C] →
    memRead s off 4 = .busError ∧ memWrite s off 4 v = (s, .busError)) ∧
  (∀ (s : State) (off : Nat) (v : Word),
    off ∈ [0x0C, 0x10, 0x14, 0x18, 0x1C, 0x20, 0x24, 0x28, 0x2C, 0x30] → memWrite s off 4 v = (s, .busError))

/-- An offset of 0x80 or more, which lies outside the window (20_memory.md R61), is answered with a bus error and changes nothing. This
is the MODEL'S choice (DESIGN CHOICE, log 10), not a rule of the spec: R66 speaks of the offsets of the window. -/
def Obligations.OffsetsOutsideWindow : Prop :=
  ∀ (s : State) (off size : Nat) (v : Word), 0x80 ≤ off →
    memRead s off size = .busError ∧ memWrite s off size v = (s, .busError)

/-- 20_memory.md R62: the lanes of `IBUF_Wk`, both ways: a read returns the four bytes at their lanes, and a write sets them so
that a read returns the word; the word `0xFFFB9000` is the bytes `FF FB 90 00`. -/
def Obligations.IbufLaneOrder : Prop :=
  (∀ (s : State) (k : Fin 8), ∃ v, memRead s (0x40 + 4 * k.val) 4 = .data v ∧
    v.extractLsb 31 24 = s.ibuf.read (4 * k.val) ∧ v.extractLsb 23 16 = s.ibuf.read (4 * k.val + 1) ∧
    v.extractLsb 15 8 = s.ibuf.read (4 * k.val + 2) ∧ v.extractLsb 7 0 = s.ibuf.read (4 * k.val + 3)) ∧
  (∀ (s : State) (k : Fin 8) (v : Word), s.busy = false → s.ibuf.wf = true →
    (memWrite s (0x40 + 4 * k.val) 4 v).1.ibuf.read (4 * k.val) = v.extractLsb 31 24 ∧
    (memWrite s (0x40 + 4 * k.val) 4 v).1.ibuf.read (4 * k.val + 1) = v.extractLsb 23 16 ∧
    (memWrite s (0x40 + 4 * k.val) 4 v).1.ibuf.read (4 * k.val + 2) = v.extractLsb 15 8 ∧
    (memWrite s (0x40 + 4 * k.val) 4 v).1.ibuf.read (4 * k.val + 3) = v.extractLsb 7 0 ∧
    memRead (memWrite s (0x40 + 4 * k.val) 4 v).1 (0x40 + 4 * k.val) 4 = .data v) ∧
  (∀ s : State, s.busy = false → s.ibuf.wf = true →
    let t := (memWrite s 0x40 4 0xFFFB9000#32).1
    t.ibuf.read 0 = 0xFF#8 ∧ t.ibuf.read 1 = 0xFB#8 ∧ t.ibuf.read 2 = 0x90#8 ∧ t.ibuf.read 3 = 0x00#8)

/-- 10_state.md R26: ILEN.LEN is bits 5:0, any value 0..63 is stored as written, bits 31:6 read 0 and are ignored on write, the
reset value is 0; a command that reads IBUF checks LEN against its required length, and a length above 32 makes every such
command fail with ContractViolation. -/
def Obligations.IlenRegister : Prop :=
  (∀ (s : State) (v : Word), s.busy = false →
    ∃ x, memRead (memWrite s 0x08 4 v).1 0x08 4 = .data x ∧ fld x 5 0 = fld v 5 0 ∧ fld x 31 6 = 0) ∧
  State.reset.ilen = 0#6 ∧
  (∀ (s : State) (i : Instr), contractBroken s i → ∃ t, exec i s = .next t ∧ t.err = true ∧ t.errcode = 8#4) ∧
  (∀ (s : State) (i : Instr), 32 < s.ilen.toNat → (∀ index layer, i ≠ .lutBitrate index layer) → (∀ index, i ≠ .lutSrate index) →
    (∀ kbps hz, i ≠ .lutFsize kbps hz) → ∃ t, exec i s = .next t ∧ t.err = true ∧ t.errcode = 8#4)

/-- The STATUS bits a bus read returns (10_state.md R28). -/
def Obligations.StatusLayout : Prop :=
  ∀ s : State, ∃ v, memRead s 0x04 4 = .data v ∧
    fld v 0 0 = s.busy.toNat ∧ fld v 1 1 = s.done.toNat ∧ fld v 2 2 = s.err.toNat ∧ fld v 3 3 = 0 ∧
    fld v 7 4 = s.errcode.toNat ∧ fld v 8 8 = s.extValid.toNat ∧ fld v 9 9 = s.lutValid.toNat ∧ fld v 10 10 = s.hdrValid.toNat ∧
    fld v 11 11 = s.siValid.toNat ∧ fld v 12 12 = s.chValid.toNat ∧ fld v 15 13 = 0 ∧ fld v 16 16 = s.overrun.toNat ∧
    fld v 31 17 = 0

/-- The register map as reads show it, in every state, a busy one among them (10_state.md R23, R26, R27). The reads of STATUS and of
the IBUF words have statements of their own. -/
def Obligations.RegisterMapReads : Prop :=
  ∀ s : State, memRead s 0x00 4 = .data s.lcmd ∧
    (∃ x, memRead s 0x08 4 = .data x ∧ fld x 5 0 = s.ilen.toNat ∧ fld x 31 6 = 0) ∧
    memRead s 0x0C 4 = .data s.extr ∧ memRead s 0x10 4 = .data s.lutr ∧
    memRead s 0x14 4 = .data s.hdr0 ∧ memRead s 0x18 4 = .data s.hdr1 ∧ memRead s 0x1C 4 = .data s.hdr2 ∧
    memRead s 0x20 4 = .data s.si0 ∧ memRead s 0x24 4 = .data s.ch0 ∧ memRead s 0x28 4 = .data s.ch1 ∧
    memRead s 0x2C 4 = .data s.ch2 ∧ memRead s 0x30 4 = .data s.ch3

/-! ## Completion -/

/-- The engine's step is the pseudocode of 10_state.md R45: the outcome of Run on LCMD, ILEN and IBUF, its result group and VALID
bit or its failure, and BUSY and DONE, all in one step; and it is the completion that the parametric machine has at MHRP's
parameters.
That the agents' data are unchanged too is the MODEL'S choice (log 1, log 4). -/
def Obligations.EngineCompletesAsRunSays : Prop :=
  ∀ s : State, s.busy = true →
    engineStep s = .next (s.complete mhrp) ∧
    ∃ t, engineStep s = .next t ∧ t.busy = false ∧ t.done = true ∧ InputKept s t ∧
      match runCommand mhrp s.lcmd s.inputLength s.inputBytes with
      | .ok r => t.err = false ∧ t.errcode = 0#4 ∧ t.groupResult r.group = r ∧ t.groupValid r.group = true ∧
          ∀ g, g ≠ r.group → GroupKept g s t
      | .error e => t.err = true ∧ t.errcode = e.code ∧
          (∀ i, decode s.lcmd = .ok i → e ≠ .illegalCommand ∧ t.groupResult (groupOf i) = (groupOf i).cleared ∧
            t.groupValid (groupOf i) = false ∧ ∀ g, g ≠ groupOf i → GroupKept g s t) ∧
          (∀ d, decode s.lcmd = .error d → e = .illegalCommand ∧ ∀ g, GroupKept g s t)

/-- 10_state.md R30: which command belongs to which group; success writes the group and sets its VALID bit, failure clears both,
IllegalCommand writes no group, and no command changes another group. -/
def Obligations.ResultGroups : Prop :=
  (∀ o w, groupOf (.extract o w) = .ext) ∧ (∀ i l, groupOf (.lutBitrate i l) = .lut) ∧ (∀ i, groupOf (.lutSrate i) = .lut) ∧
  (∀ k z, groupOf (.lutFsize k z) = .lut) ∧ groupOf .parseHdr = .hdr ∧ (∀ m, groupOf (.parseSi m) = .si) ∧
  groupOf .parseCh = .ch ∧
  (∀ s : State, s.groupResult .ext = .ext s.extr ∧ s.groupResult .lut = .lut s.lutr ∧
    s.groupResult .hdr = .hdr s.hdr0 s.hdr1 s.hdr2 ∧ s.groupResult .si = .si s.si0 ∧
    s.groupResult .ch = .ch s.ch0 s.ch1 s.ch2 s.ch3) ∧
  (∀ (i : Instr) (s : State), ∃ t, exec i s = .next t ∧ (∀ g, g ≠ groupOf i → GroupKept g s t) ∧
    (∀ r, runInstr mhrp s.inputLength s.inputBytes i = .ok r →
      t.groupResult (groupOf i) = r ∧ t.groupValid (groupOf i) = true) ∧
    (∀ e, runInstr mhrp s.inputLength s.inputBytes i = .error e → t.groupValid (groupOf i) = false ∧
      t.groupResult (groupOf i) = match groupOf i with
        | .ext => .ext 0#32
        | .lut => .lut 0#32
        | .hdr => .hdr 0#32 0#32 0#32
        | .si => .si 0#32
        | .ch => .ch 0#32 0#32 0#32 0#32)) ∧
  (∀ (s : State) (d : DecodeError), s.busy = true → decode s.lcmd = .error d →
    ∃ t, engineStep s = .next t ∧ ∀ g, GroupKept g s t)

/-- The frame of every command (10_state.md R30, R45, R47; 20_memory.md R68): LCMD, ILEN, OVERRUN, every byte of IBUF, and every other
group's registers and VALID bit are unchanged. No form of any command stores to IBUF. That the agents' data are unchanged too is
the MODEL'S choice (log 1, log 4): the spec names no such data. -/
def Obligations.CommandFrame : Prop :=
  ∀ (i : Instr) (s t : State), exec i s = .next t →
    InputKept s t ∧
    (groupOf i ≠ .ext → t.extr = s.extr ∧ t.extValid = s.extValid) ∧
    (groupOf i ≠ .lut → t.lutr = s.lutr ∧ t.lutValid = s.lutValid) ∧
    (groupOf i ≠ .hdr → t.hdr0 = s.hdr0 ∧ t.hdr1 = s.hdr1 ∧ t.hdr2 = s.hdr2 ∧ t.hdrValid = s.hdrValid) ∧
    (groupOf i ≠ .si → t.si0 = s.si0 ∧ t.siValid = s.siValid) ∧
    (groupOf i ≠ .ch → t.ch0 = s.ch0 ∧ t.ch1 = s.ch1 ∧ t.ch2 = s.ch2 ∧ t.ch3 = s.ch3 ∧ t.chValid = s.chValid)

/-- A command's outcome depends on LCMD, ILEN and the IBUF bytes below ILEN alone, and a LUT command's on LCMD alone
(10_state.md R45, 20_memory.md R68): two states that agree on these complete with the same status and the same result group. -/
def Obligations.OutcomeDependsOnInputAlone : Prop :=
  ∀ s t s' t' : State, s.busy = true → t.busy = true → s.lcmd = t.lcmd →
    ((s.ilen = t.ilen ∧ ∀ a, a < s.ilen.toNat → s.ibuf.read a = t.ibuf.read a) ∨
      ∃ i, decode s.lcmd = .ok i ∧ groupOf i = .lut) →
    engineStep s = .next s' → engineStep t = .next t' →
    s'.err = t'.err ∧ s'.errcode = t'.errcode ∧ s'.busy = t'.busy ∧ s'.done = t'.done ∧
      ∀ i, decode s.lcmd = .ok i → s'.groupResult (groupOf i) = t'.groupResult (groupOf i) ∧
        s'.groupValid (groupOf i) = t'.groupValid (groupOf i)

/-- 60_exceptions.md R250: the code of every failure, and which command may complete with it; no other code is ever written. -/
def Obligations.FailureCodes : Prop :=
  (Failure.syncNotFound.code = 1#4 ∧ Failure.unsupportedVersion.code = 2#4 ∧ Failure.unsupportedLayer.code = 3#4 ∧
    Failure.invalidBitrate.code = 4#4 ∧ Failure.invalidSamplingRate.code = 5#4 ∧ Failure.invalidBlockType.code = 6#4 ∧
    Failure.contractViolation.code = 8#4 ∧ Failure.illegalCommand.code = 9#4) ∧
  ∀ (i : Instr) (s t : State), exec i s = .next t →
    (t.err = false ∧ t.errcode = 0#4) ∨
    (t.err = true ∧ match i with
      | .extract _ _ => t.errcode = 8#4
      | .parseHdr => t.errcode ∈ [1#4, 2#4, 3#4, 4#4, 5#4, 8#4]
      | .parseSi _ => t.errcode = 8#4
      | .parseCh => t.errcode ∈ [6#4, 8#4]
      | .lutBitrate _ _ => t.errcode ∈ [3#4, 4#4]
      | .lutSrate _ => t.errcode = 5#4
      | .lutFsize _ _ => t.errcode = 4#4)

/-! ## EXTRACT -/

/-- 40_bitfield.md R101: the extractor's value is the sum over the field's bits, and is below `2^w`. -/
def Obligations.ExtractorIsBitSum : Prop :=
  ∀ (B : List Byte) (o w : Nat), 1 ≤ w → w ≤ 16 → o + w ≤ 8 * B.length →
    bits B o w = bitsSum (fun i => B.getD i 0) o w ∧ bits B o w < 2 ^ w

/-- EXTRACT completes with the field's value in EXTR wherever the extractor's precondition holds (40_bitfield.md R104). -/
def Obligations.ExtractReadsField : Prop :=
  ∀ (s : State) (o w : Nat), s.ilen.toNat ≤ 32 → 1 ≤ w → w ≤ 16 → o + w ≤ 8 * s.ilen.toNat →
    exec (.extract o w) s =
      .next { succeeded s with extr := BitVec.ofNat 32 (field s o w), extValid := true } ∧ field s o w < 2 ^ 16

/-- EXTRACT fails with ContractViolation and clears EXTR wherever the precondition is violated (40_bitfield.md R103, R104). -/
def Obligations.ExtractViolations : Prop :=
  ∀ (s : State) (o w : Nat), 32 < s.ilen.toNat ∨ w = 0 ∨ 16 < w ∨ 8 * s.ilen.toNat < o + w →
    exec (.extract o w) s = .next { failedWith s 8#4 with extr := 0#32, extValid := false }

/-! ## LUT commands -/

/-- 41_tables.md R123: the bitrate lookup for every layer, index and set FREE_REJECT_LAYERS; MHRP's set is empty, so index 0 gives 0
for every layer there. -/
def Obligations.BitrateLookup : Prop :=
  (∀ (p : Params) (l : Layer), brLookup p l 15 = .error .invalidBitrate) ∧
  (∀ (p : Params) (l : Layer), l ∈ p.freeReject → brLookup p l 0 = .error .invalidBitrate) ∧
  (∀ (p : Params) (l : Layer), l ∉ p.freeReject → brLookup p l 0 = .ok 0) ∧
  (∀ (p : Params) (l : Layer) (i k : Nat), 1 ≤ i → i ≤ 14 → bitrateAt p l i = some k → brLookup p l i = .ok k) ∧
  mhrp.freeReject = [] ∧ (∀ l : Layer, brLookup mhrp l 0 = .ok 0)

/-- LUT_BITRATE on a layer code and an index that have a kbps: LUTR takes the entry of 41_tables.md R120, or 0 for index 0. -/
def Obligations.LutBitrateReadsTable : Prop :=
  ∀ (s : State) (index layer k : Nat), layer ∈ [1, 2, 3] → index < 16 → kbpsOf layer index = some k →
    exec (.lutBitrate index layer) s = .next { succeeded s with lutr := BitVec.ofNat 32 k, lutValid := true }

/-- LUT_BITRATE's failures in their order: the reserved layer code before index 15 (41_tables.md R127). -/
def Obligations.LutBitrateFailures : Prop :=
  (∀ (s : State) (index : Nat),
    exec (.lutBitrate index 0) s = .next { failedWith s 3#4 with lutr := 0#32, lutValid := false }) ∧
  (∀ (s : State) (layer : Nat), layer ∈ [1, 2, 3] →
    exec (.lutBitrate 15 layer) s = .next { failedWith s 4#4 with lutr := 0#32, lutValid := false })

/-- 41_tables.md R122, R126: the sampling-frequency table and its lookup, and LUT_SRATE, which reports it. -/
def Obligations.SamplingRateLookup : Prop :=
  srLookup 0 = .ok 44100 ∧ srLookup 1 = .ok 48000 ∧ srLookup 2 = .ok 32000 ∧ srLookup 3 = .error .invalidSamplingRate ∧
  srateTable.length = 3 ∧
  (∀ (s : State) (index hz : Nat), hzOf index = some hz →
    exec (.lutSrate index) s = .next { succeeded s with lutr := BitVec.ofNat 32 hz, lutValid := true }) ∧
  (∀ s : State, exec (.lutSrate 3) s = .next { failedWith s 5#4 with lutr := 0#32, lutValid := false })

/-- 41_tables.md R124: FRAME_SIZE_TABLE has exactly 42 entries, the Layer III formula on its keys, no entry for any other pair, and
every value below 65536; its entry for (128, 44100) is 417. -/
def Obligations.FrameSizeTable : Prop :=
  mhrp.frameSizeTable.length = 42 ∧ (∀ kbps hz : Nat, mhrp.frameSizeTable.lookup (kbps, hz) = frameSizeOf kbps hz) ∧
  (∀ e ∈ mhrp.frameSizeTable, e.2 < 65536) ∧ mhrp.frameSizeTable.lookup (128, 44100) = some 417

/-- LUT_FSIZE completes with the frame size of a pair that has one, and fails with InvalidBitrate on every other pair, a rate
outside the table among them (41_tables.md R125, R129). -/
def Obligations.LutFsizeReadsTable : Prop :=
  (∀ (s : State) (kbps hz n : Nat), frameSizeOf kbps hz = some n →
    exec (.lutFsize kbps hz) s = .next { succeeded s with lutr := BitVec.ofNat 32 n, lutValid := true }) ∧
  (∀ (s : State) (kbps hz : Nat), frameSizeOf kbps hz = none →
    exec (.lutFsize kbps hz) s = .next { failedWith s 4#4 with lutr := 0#32, lutValid := false })

/-! ## PARSE_HDR -/

/-- PARSE_HDR on a header that no step rejects: every field of HDR0, HDR1 and HDR2, and all else unchanged (42_header.md R151 to
R163, R165; 10_state.md R33 to R35). The frame size is the table's, whatever the padding bit. -/
def Obligations.HeaderDecoded : Prop :=
  ∀ (s : State) (kbps hz size : Nat), s.ilen = 4#6 → field s 0 11 = 0x7FF → field s 11 2 ≠ 1 → field s 13 2 ≠ 0 →
    kbpsOf (field s 13 2) (field s 16 4) = some kbps → hzOf (field s 20 2) = some hz → frameSizeOf kbps hz = some size →
    ∃ h0 h1 h2 : Word,
      exec .parseHdr s = .next { succeeded s with hdr0 := h0, hdr1 := h1, hdr2 := h2, hdrValid := true } ∧
      fld h0 1 0 = (if field s 11 2 = 3 then 0 else if field s 11 2 = 2 then 1 else 2) ∧
      fld h0 3 2 = (if field s 13 2 = 3 then 1 else if field s 13 2 = 2 then 2 else 3) ∧
      fld h0 4 4 = (if field s 15 1 = 0 then 1 else 0) ∧ fld h0 5 5 = field s 22 1 ∧ fld h0 7 6 = field s 24 2 ∧
      fld h0 8 8 = field s 27 1 ∧ fld h0 9 9 = field s 26 1 ∧ fld h0 10 10 = field s 28 1 ∧ fld h0 11 11 = field s 29 1 ∧
      fld h0 13 12 = field s 30 2 ∧ fld h0 31 14 = 0 ∧
      fld h1 15 0 = hz ∧ fld h1 24 16 = kbps ∧ fld h1 31 25 = 0 ∧ fld h2 15 0 = size ∧ fld h2 31 16 = 0

/-- PARSE_HDR reports the first failing step in SRC's order, and on any failure HDR0 to HDR2 are 0 and HDR_VALID is 0
(42_header.md R166, R167): "no partial/garbage header is ever returned on failure". -/
def Obligations.HeaderFailures : Prop :=
  ∀ s : State, headerCode s ≠ 0#4 →
    exec .parseHdr s =
      .next { failedWith s (headerCode s) with hdr0 := 0#32, hdr1 := 0#32, hdr2 := 0#32, hdrValid := false }

/-- 42_header.md R158: the private bit's value never changes the outcome: two inputs that agree in every other bit of the header
complete alike. -/
def Obligations.PrivateBitIgnored : Prop :=
  ∀ s t s' t' : State, s.ilen = t.ilen → (∀ k, k < 32 → k ≠ 23 → bitOf s.ibuf.read k = bitOf t.ibuf.read k) →
    exec .parseHdr s = .next s' → exec .parseHdr t = .next t' →
    s'.err = t'.err ∧ s'.errcode = t'.errcode ∧ s'.groupResult .hdr = t'.groupResult .hdr ∧ s'.hdrValid = t'.hdrValid

/-! ## PARSE_SI -/

/-- PARSE_SI on a block of the length its mode requires: SI0 under the DOC layout (43_sideinfo.md R190 to R193, R196, R197). -/
def Obligations.SideInfoDecoded : Prop :=
  ∀ (s : State) (mode : ChannelMode), s.ilen.toNat = (if mode = .singleChannel then 17 else 32) →
    ∃ w : Word, exec (.parseSi mode) s = .next { succeeded s with si0 := w, siValid := true } ∧
      fld w 8 0 = field s 0 9 ∧ fld w 15 9 = 0 ∧
      fld w 23 16 = (if mode = .singleChannel then field s 9 4 else field s 9 6) ∧
      fld w 24 24 = (if mode = .singleChannel then 0 else 1) ∧ fld w 31 25 = 0

/-- 43_sideinfo.md R190, R191: the required length is 17 for SingleChannel and 32 for every other mode; any other ILEN fails with
ContractViolation, and this is the only validation. -/
def Obligations.SideInfoLength : Prop :=
  (∀ (s : State) (mode : ChannelMode), s.ilen.toNat ≠ (if mode = .singleChannel then 17 else 32) →
    exec (.parseSi mode) s = .next { failedWith s 8#4 with si0 := 0#32, siValid := false }) ∧
  (∀ (s t : State) (mode : ChannelMode), s.ilen.toNat = (if mode = .singleChannel then 17 else 32) →
    exec (.parseSi mode) s = .next t → t.err = false)

/-- 43_sideinfo.md R194: under SI_LAYOUT = ISO the selection is bits 14..17 of a SingleChannel block and bits 12..19 of any other,
and the private bits are not reported; stated of the parametric completion. -/
def Obligations.SideInfoIsoLayout : Prop :=
  ∀ (p : Params) (s : State) (mode : ChannelMode), p.siLayout = .iso → decode s.lcmd = .ok (.parseSi mode) →
    s.ilen.toNat = (if mode = .singleChannel then 17 else 32) →
    ∃ w : Word, s.complete p = { succeeded s with si0 := w, siValid := true } ∧
      fld w 8 0 = field s 0 9 ∧ fld w 15 9 = 0 ∧
      fld w 23 16 = (if mode = .singleChannel then field s 14 4 else field s 12 8) ∧
      fld w 24 24 = (if mode = .singleChannel then 0 else 1) ∧ fld w 31 25 = 0

/-! ## PARSE_CH -/

/-- PARSE_CH on a window with `window_switching_flag` = 0: the leading fields, the flags, the Normal fields, and CH3 0
(44_channel.md R211, R212, R214, R215, R219, R221). -/
def Obligations.ChannelNormal : Prop :=
  ∀ s : State, s.ilen = 8#6 → field s 33 1 = 0 →
    ∃ c0 c1 c2 : Word,
      exec .parseCh s = .next { succeeded s with ch0 := c0, ch1 := c1, ch2 := c2, ch3 := 0#32, chValid := true } ∧
      fld c0 11 0 = field s 0 12 ∧ fld c0 20 12 = field s 12 9 ∧ fld c0 28 21 = field s 21 8 ∧ fld c0 31 29 = 0 ∧
      fld c1 3 0 = field s 29 4 ∧ fld c1 4 4 = field s 56 1 ∧ fld c1 5 5 = field s 57 1 ∧ fld c1 6 6 = field s 58 1 ∧
      fld c1 7 7 = 0 ∧ fld c1 31 8 = 0 ∧
      fld c2 4 0 = field s 34 5 ∧ fld c2 9 5 = field s 39 5 ∧ fld c2 14 10 = field s 44 5 ∧ fld c2 18 15 = field s 49 4 ∧
      fld c2 21 19 = field s 53 3 ∧ fld c2 31 22 = 0

/-- PARSE_CH on a window with `window_switching_flag` = 1 and a block-type code other than `'00'`: the WindowSwitched fields, the
two-level block type, and CH2 0 (44_channel.md R211, R212, R214, R216, R217, R219, R221). -/
def Obligations.ChannelWindowSwitched : Prop :=
  ∀ s : State, s.ilen = 8#6 → field s 33 1 = 1 → field s 34 2 ≠ 0 →
    ∃ c0 c1 c3 : Word,
      exec .parseCh s = .next { succeeded s with ch0 := c0, ch1 := c1, ch2 := 0#32, ch3 := c3, chValid := true } ∧
      fld c0 11 0 = field s 0 12 ∧ fld c0 20 12 = field s 12 9 ∧ fld c0 28 21 = field s 21 8 ∧ fld c0 31 29 = 0 ∧
      fld c1 3 0 = field s 29 4 ∧ fld c1 4 4 = field s 56 1 ∧ fld c1 5 5 = field s 57 1 ∧ fld c1 6 6 = field s 58 1 ∧
      fld c1 7 7 = 1 ∧ fld c1 31 8 = 0 ∧
      fld c3 1 0 = blockTypeOf (field s 34 2) (field s 36 1) ∧ fld c3 6 2 = field s 37 5 ∧ fld c3 11 7 = field s 42 5 ∧
      fld c3 14 12 = field s 47 3 ∧ fld c3 17 15 = field s 50 3 ∧ fld c3 20 18 = field s 53 3 ∧ fld c3 31 21 = 0

/-- PARSE_CH's failures: any length but 8 before any field is read, then block-type code `'00'` in a window-switched block
(44_channel.md R210, R217, R221). -/
def Obligations.ChannelFailures : Prop :=
  (∀ s : State, s.ilen ≠ 8#6 →
    exec .parseCh s =
      .next { failedWith s 8#4 with ch0 := 0#32, ch1 := 0#32, ch2 := 0#32, ch3 := 0#32, chValid := false }) ∧
  (∀ s : State, s.ilen = 8#6 → field s 33 1 = 1 → field s 34 2 = 0 →
    exec .parseCh s =
      .next { failedWith s 6#4 with ch0 := 0#32, ch1 := 0#32, ch2 := 0#32, ch3 := 0#32, chValid := false })

/-- Bits 59 to 63 of a window, and the mixed bit of a window-switched block whose code is not `'10'`, never change the outcome
(44_channel.md R213, R218). -/
def Obligations.ChannelIgnoredBits : Prop :=
  ∀ s t s' t' : State, s.ilen = t.ilen →
    (∀ k, k < 59 → k = 36 ∧ field s 33 1 = 1 ∧ field s 34 2 ≠ 2 ∨ bitOf s.ibuf.read k = bitOf t.ibuf.read k) →
    exec .parseCh s = .next s' → exec .parseCh t = .next t' →
    s'.err = t'.err ∧ s'.errcode = t'.errcode ∧ s'.groupResult .ch = t'.groupResult .ch ∧ s'.chValid = t'.chValid

/-! ## Reset -/

/-- 10_state.md R51 and 70_reset_and_hazards.md R280: a reset, in one step between any two others, gives every register of MHRP its
reset value, and discards a command in flight without completion: DONE stays 0. The spec leaves IBUF unspecified after a reset; that
each byte is the draw `Config.resetByte s.draws a`, a free value, is the MODEL'S choice (DESIGN CHOICE, log 4), and that a reset is
a turn of a list of turns is the MODEL'S too (log 1). The tables are constants. -/
def Obligations.ResetEvent : Prop :=
  ∀ (s : State) (ts : List Turn), s.turns = .reset :: ts →
    ∃ t, step s = .next t ∧ t.lcmd = 0#32 ∧ t.statusWord = 0#32 ∧ t.busy = false ∧ t.done = false ∧ t.err = false ∧
      t.errcode = 0#4 ∧ t.extValid = false ∧ t.lutValid = false ∧ t.hdrValid = false ∧ t.siValid = false ∧ t.chValid = false ∧
      t.overrun = false ∧ t.ilen = 0#6 ∧ (∀ a, a < 32 → t.ibuf.read a = Config.resetByte s.draws a) ∧
      t.extr = 0#32 ∧ t.lutr = 0#32 ∧ t.hdr0 = 0#32 ∧ t.hdr1 = 0#32 ∧ t.hdr2 = 0#32 ∧ t.si0 = 0#32 ∧
      t.ch0 = 0#32 ∧ t.ch1 = 0#32 ∧ t.ch2 = 0#32 ∧ t.ch3 = 0#32

/-- The model's own data at a reset turn: what the host still does and was answered stays, the turn is taken off the list, IBUF keeps
its canonical form, and the next reset draws anew. These are the MODEL'S choices (log 1, log 4, log 13, log 16), not rules of the
spec. -/
def Obligations.ResetKeepsHostData : Prop :=
  ∀ (s : State) (ts : List Turn), s.turns = .reset :: ts →
    ∃ t, step s = .next t ∧ t.hostProg = s.hostProg ∧ t.turns = ts ∧ t.trace = s.trace ∧ t.draws = s.draws + 1 ∧ t.ibuf.wf = true

/-- After power-on, whatever IBUF drew, MHRP is idle, STATUS and CMD read 0, and a CMD write is taken at once
(70_reset_and_hazards.md R281, R282; 10_state.md R51). -/
def Obligations.ReadyAfterPowerOn : Prop :=
  ∀ (m : Memory) (w : Word), let s := State.resetWith m
    s.busy = false ∧ memRead s 0x04 4 = .data 0#32 ∧ memRead s 0x00 4 = .data 0#32 ∧ memRead s 0x08 4 = .data 0#32 ∧
    (memWrite s 0x00 4 w).1.busy = true ∧ (memWrite s 0x00 4 w).1.lcmd = w ∧ (memWrite s 0x00 4 w).2 = .written

/-! ## Steps -/

/-- When the engine moves and the latched word decodes to a command, the step is that command's meaning, with the turn taken off the
list; with no turn left a busy engine moves, and the step is the meaning at that very state. The list of turns is the MODEL'S (log 1). -/
def Obligations.StepRunsDecodedCommand : Prop :=
  ∀ (s : State) (i : Instr), s.busy = true → decode s.lcmd = .ok i → i.wf = true →
    (s.turns = [] → step s = exec i s) ∧ (∀ ts, s.turns = .engine :: ts → step s = exec i (s.setTurns ts))

/-- When the host moves, by a turn or because no turn is listed and BUSY = 0, it performs exactly the next host operation as one bus
transaction: RD and WR, WAIT, which stays while BUSY = 1, and PARSE_SI.FROM_HDR, which reads HDR0 and then submits PARSE_SI with
the MODE read (30_encoding.md R96, 20_memory.md R60). A host with nothing left to do changes nothing but the turns. The list of
turns, the host's list of operations, the record of its answers and the passing of an idle turn are the MODEL'S (log 1, log 2). -/
def Obligations.HostTurnPerformsOneTransaction : Prop :=
  ∀ (s : State) (ops : List HostOp), HostMoves s →
    (s.hostProg = [] → step s = .next { s with turns := s.turns.tail }) ∧
    (∀ off size, s.hostProg = .txn (.read off size) :: ops →
      step s = .next { s with turns := s.turns.tail, hostProg := ops, trace := memRead s off size :: s.trace }) ∧
    (∀ off size v t r, s.hostProg = .txn (.write off size v) :: ops →
      memWrite { s with turns := s.turns.tail, hostProg := ops } off size v = (t, r) →
      step s = .next { t with trace := r :: s.trace }) ∧
    (s.hostProg = .wait :: ops →
      step s = .next { s with turns := s.turns.tail, hostProg := if s.busy then .wait :: ops else ops,
                              trace := .data s.statusWord :: s.trace }) ∧
    (s.hostProg = .siFromHdr :: ops →
      step s = .next { s with turns := s.turns.tail, trace := .data s.hdr0 :: s.trace,
                              hostProg := .txn (.write 0x00 4 (encode (.parseSi (ChannelMode.ofCode (fld s.hdr0 7 6))))) ::
                                .wait :: ops })

/-- The expansions of the host notation: WR and RD, SUBMIT, LOAD, which writes the IBUF words that cover the bytes, a missing byte
being 0, and then ILEN, and CLEAR_OVERRUN (30_encoding.md R96). -/
def Obligations.HostNotationExpands : Prop :=
  (∀ (off : Nat) (v : Word), HostOp.wr off v = .txn (.write off 4 v)) ∧ (∀ off : Nat, HostOp.rd off = .txn (.read off 4)) ∧
  (∀ i : Instr, submit (encode i) = [.txn (.write 0x00 4 (encode i)), .wait]) ∧
  clearOverrun = [.txn (.write 0x04 4 0x00010000#32)] ∧
  (∀ bytes : List Byte,
    (load bytes).length = (bytes.length + 3) / 4 + 1 ∧
    (∀ k, 4 * k < bytes.length → ∃ w : Word, (load bytes)[k]? = some (.txn (.write (0x40 + 4 * k) 4 w)) ∧
      fld w 31 24 = (bytes.getD (4 * k) 0).toNat ∧ fld w 23 16 = (bytes.getD (4 * k + 1) 0).toNat ∧
      fld w 15 8 = (bytes.getD (4 * k + 2) 0).toNat ∧ fld w 7 0 = (bytes.getD (4 * k + 3) 0).toNat) ∧
    (load bytes)[(bytes.length + 3) / 4]? = some (.txn (.write 0x08 4 (BitVec.ofNat 32 bytes.length))))

/-- The engine has a step exactly when BUSY = 1 (10_state.md R22): an engine turn with BUSY = 0 changes nothing but the turns. That such
a turn passes is the MODEL'S choice (log 2). -/
def Obligations.IdleEngineTurnPasses : Prop :=
  ∀ (s : State) (ts : List Turn), s.turns = .engine :: ts → s.busy = false → step s = .next { s with turns := ts }

/-- MHRP never stops: every step of every state answers a next state ("MHRP reports them like the others and keeps running",
60_exceptions.md R253; a bus error changes nothing, 20_memory.md R66). That a bus error is an answer, and that a turn of an agent
with nothing to do passes, are the MODEL'S choices (log 2, log 6). -/
def Obligations.MachineNeverStops : Prop := ∀ s : State, ∃ t, step s = .next t

/-- A host program's faults (60_exceptions.md R253; 93_implementation_defined.md U17, U18, U21): at an engine turn the guarded step
stops with ContractViolation exactly when the command's precondition on its input is broken, and with IllegalCommand exactly on
an illegal word; at a host turn it stops with a bus error exactly when the read or the write is answered so. Otherwise it is the
step: an engine turn while idle, WAIT, PARSE_SI.FROM_HDR, a host with nothing left to do, a reset. The guarded step beside a step
that goes on is the MODEL'S form (log 6, log 7). -/
def Obligations.GuardedStepFaults : Prop :=
  (∀ (s : State) (i : Instr), EngineMoves s → s.busy = true → decode s.lcmd = .ok i →
    (guardedStep s = .fault .contractViolation ↔ contractBroken s i) ∧ (¬ contractBroken s i → guardedStep s = step s)) ∧
  (∀ (s : State) (d : DecodeError), EngineMoves s → s.busy = true → decode s.lcmd = .error d →
    guardedStep s = .fault .illegalCommand) ∧
  (∀ s : State, EngineMoves s → s.busy = false → guardedStep s = step s) ∧
  (∀ (s : State) (off size : Nat) (v : Word) (ops : List HostOp), HostMoves s →
    s.hostProg = .txn (.write off size v) :: ops →
    if (memWrite s off size v).2 = .busError then guardedStep s = .fault .busError else guardedStep s = step s) ∧
  (∀ (s : State) (off size : Nat) (ops : List HostOp), HostMoves s → s.hostProg = .txn (.read off size) :: ops →
    if memRead s off size = .busError then guardedStep s = .fault .busError else guardedStep s = step s) ∧
  (∀ (s : State) (ops : List HostOp), HostMoves s → s.hostProg = .wait :: ops ∨ s.hostProg = .siFromHdr :: ops ∨ s.hostProg = [] →
    guardedStep s = step s) ∧
  (∀ s : State, ResetMoves s → guardedStep s = step s)

/-! ## Rules of the whole machine -/

/-- Every step keeps the invariant: canonical IBUF, a truthful STATUS, named codes, reserved bits 0, zeros in every group that is
not VALID, one channel variant at a time, and a decoded header's rates and size those of the tables. -/
def Obligations.InvariantKeptByEveryStep : Prop :=
  ∀ s t : State, s.Inv → step s = .next t → t.Inv

/-- The invariant holds after power-on, whatever canonical contents IBUF drew. -/
def Obligations.InvariantAtReset : Prop :=
  (∀ m : Memory, m.wf = true → (State.resetWith m).Inv) ∧ State.reset.Inv

/-- A command in flight completes at the engine's turn with the outcome of the word and the input that were accepted, however many
turns the host takes before, whatever its program does in them (10_state.md R22, R43, R45, R48; 20_memory.md R75). The list of
turns is the MODEL'S (log 1); that the engine's turn comes is its premise, since no rule of the step forces it (log 9). -/
def Obligations.InFlightCommandCompletesUntouched : Prop :=
  ∀ (n : Nat) (s : State) (ts : List Turn), s.busy = true → s.turns = List.replicate n .host ++ .engine :: ts →
    ∃ t, Sys2Proof.core.run (n + 1) s = .next t ∧ t.busy = false ∧ t.done = true ∧ t.turns = ts ∧
      t.lcmd = s.lcmd ∧ t.ilen = s.ilen ∧ (∀ a, t.ibuf.read a = s.ibuf.read a) ∧
      match runCommand mhrp s.lcmd s.inputLength s.inputBytes with
      | .ok r => t.err = false ∧ t.errcode = 0#4 ∧ t.groupResult r.group = r ∧ t.groupValid r.group = true ∧
          ∀ g, g ≠ r.group → GroupKept g s t
      | .error e => t.err = true ∧ t.errcode = e.code ∧
          (∀ i, decode s.lcmd = .ok i → t.groupResult (groupOf i) = (groupOf i).cleared ∧ t.groupValid (groupOf i) = false ∧
            ∀ g, g ≠ groupOf i → GroupKept g s t) ∧
          (∀ d, decode s.lcmd = .error d → ∀ g, GroupKept g s t)

/-- OVERRUN is sticky: only a host write of 1 to bit 16 of STATUS or a reset clears it, and only a dropped write sets it
(10_state.md R28, R29, R47; 60_exceptions.md R257).
Who moves is the MODEL'S list of turns (log 1). -/
def Obligations.OverrunIsSticky : Prop :=
  ∀ s t : State, step s = .next t →
    (s.overrun = true → t.overrun = false → ResetMoves s ∨ HostMoves s ∧ ∃ v, NextWrite s 0x04 v ∧ fld v 16 16 = 1) ∧
    (s.overrun = false → t.overrun = true → HostMoves s ∧ s.busy = true ∧
      ∃ off v, NextWrite s off v ∧ (off = 0x00 ∨ off = 0x08 ∨ ∃ k : Fin 8, off = 0x40 + 4 * k.val))

/-- A command starts only by an accepted write to CMD, LCMD is then the word written, and BUSY falls only by a completion or a reset
(10_state.md R21, R28, R41, R45).
Who moves is the MODEL'S list of turns (log 1). -/
def Obligations.CommandsStartAndEndAsStated : Prop :=
  ∀ s t : State, step s = .next t →
    (s.busy = false → t.busy = true → HostMoves s ∧ NextWrite s 0x00 t.lcmd) ∧
    (t.lcmd ≠ s.lcmd → ResetMoves s ∨ HostMoves s ∧ s.busy = false ∧ t.busy = true) ∧
    (s.busy = true → t.busy = false → ResetMoves s ∨ EngineMoves s ∧ t.done = true)

/-- Every change of DONE, ERR and ERRCODE has a cause that the table of 10_state.md R28 lists: they are set only by a completion, which
takes an engine that moves with BUSY = 1 (R22), and cleared only by an acceptance, a reset, and for ERR and ERRCODE a successful
completion. Who moves is the MODEL'S list of turns (log 1). -/
def Obligations.StatusBitsChangeAsStated : Prop :=
  ∀ s t : State, step s = .next t →
    (s.done = false → t.done = true → EngineMoves s ∧ s.busy = true ∧ t.busy = false) ∧
    (s.err = false → t.err = true → EngineMoves s ∧ s.busy = true ∧ t.busy = false ∧ t.done = true) ∧
    (t.errcode ≠ s.errcode → t.errcode ≠ 0#4 → EngineMoves s ∧ s.busy = true ∧ t.busy = false ∧ t.done = true ∧ t.err = true) ∧
    (s.done = true → t.done = false → ResetMoves s ∨ HostMoves s ∧ s.busy = false ∧ t.busy = true ∧ NextWrite s 0x00 t.lcmd) ∧
    (s.err = true ∧ t.err = false ∨ s.errcode ≠ 0#4 ∧ t.errcode = 0#4 →
      ResetMoves s ∨ HostMoves s ∧ s.busy = false ∧ t.busy = true ∧ NextWrite s 0x00 t.lcmd ∨
        EngineMoves s ∧ s.busy = true ∧ t.busy = false ∧ t.done = true ∧ t.err = false ∧ t.errcode = 0#4)

/-- A failure report stays as the failed completion left it until the next accepted command or a reset; nothing else clears or changes
it (60_exceptions.md R256, R257).
Who moves is the MODEL'S list of turns (log 1). -/
def Obligations.FailureReportStays : Prop :=
  ∀ s t : State, step s = .next t → s.busy = false → s.err = true →
    (t.err = true ∧ t.errcode = s.errcode ∧ t.done = s.done ∧ t.lcmd = s.lcmd) ∨ ResetMoves s ∨
    (HostMoves s ∧ t.busy = true ∧ NextWrite s 0x00 t.lcmd)

/-- Result registers and VALID bits change only by the completion of a command of their group, or by a reset: no host transaction
changes them, so reads while BUSY = 1 show what the previous completion left, and a host that saw DONE sees every result until it
submits another command (10_state.md R30; 20_memory.md R72; 70_reset_and_hazards.md R284).
Who moves is the MODEL'S list of turns (log 1). -/
def Obligations.ResultsChangeOnlyByTheirCommand : Prop :=
  ∀ (s t : State) (g : Group), step s = .next t → ¬ GroupKept g s t →
    ResetMoves s ∨ EngineMoves s ∧ s.busy = true ∧ t.done = true ∧ ∃ i, decode s.lcmd = .ok i ∧ groupOf i = g

/-- IBUF and ILEN change only by the host's writes to them while idle, or by a reset (10_state.md R24, R43; 20_memory.md R68;
70_reset_and_hazards.md R287).
Who moves is the MODEL'S list of turns (log 1). -/
def Obligations.InputChangesOnlyByHostWrites : Prop :=
  ∀ s t : State, step s = .next t →
    (t.ilen ≠ s.ilen → ResetMoves s ∨ HostMoves s ∧ s.busy = false ∧ ∃ v, NextWrite s 0x08 v ∧ t.ilen.toNat = fld v 5 0) ∧
    (t.ibuf ≠ s.ibuf → ResetMoves s ∨ HostMoves s ∧ s.busy = false ∧ ∃ (k : Fin 8) (v : Word), NextWrite s (0x40 + 4 * k.val) v)

end
end

