-- ==== Sys2Proof/Laws/Decode.lean ====
section
/-! SUPPORT. Bit fields, packing, and what the decoder accepts (30_encoding.md R80 to R90). -/

namespace Sys2Proof

theorem slice_lt (v : Word) (hi lo : Nat) : slice v hi lo < 2 ^ (hi + 1 - lo) := Nat.mod_lt _ (Nat.two_pow_pos _)

theorem unlessReserved_ok {w : Word} {lo : Nat} {i j : Instr} :
    unlessReserved w lo i = .ok j ↔ slice w 31 lo = 0 ∧ i = j := by
  unfold unlessReserved
  split <;> simp_all

theorem unlessReserved_isError {w : Word} {lo : Nat} {i : Instr} :
    (∃ e, unlessReserved w lo i = .error e) ↔ slice w 31 lo ≠ 0 := by
  unfold unlessReserved
  split <;> simp_all

@[simp] theorem ChannelMode.code_lt (m : ChannelMode) : m.code < 4 := by cases m <;> decide

@[simp] theorem ChannelMode.ofCode_code (m : ChannelMode) : ChannelMode.ofCode m.code = m := by cases m <;> rfl

theorem ChannelMode.code_ofCode {n : Nat} (h : n < 4) : (ChannelMode.ofCode n).code = n := by
  interval_cases n <;> rfl

/-- Everything the decoder can accept: the seven formats, each with its operand fields and its reserved bits 0. -/
theorem decode_ok_cases {w : Word} {i : Instr} (h : decode w = .ok i) :
    (slice w 3 0 = 1 ∧ slice w 31 17 = 0 ∧ i = .extract (slice w 11 4) (slice w 16 12)) ∨
    (slice w 3 0 = 2 ∧ slice w 31 4 = 0 ∧ i = .parseHdr) ∨
    (slice w 3 0 = 3 ∧ slice w 31 6 = 0 ∧ i = .parseSi (ChannelMode.ofCode (slice w 5 4))) ∨
    (slice w 3 0 = 4 ∧ slice w 31 4 = 0 ∧ i = .parseCh) ∨
    (slice w 3 0 = 5 ∧ slice w 31 10 = 0 ∧ i = .lutBitrate (slice w 7 4) (slice w 9 8)) ∨
    (slice w 3 0 = 6 ∧ slice w 31 6 = 0 ∧ i = .lutSrate (slice w 5 4)) ∨
    (slice w 3 0 = 7 ∧ slice w 31 30 = 0 ∧ i = .lutFsize (slice w 12 4) (slice w 29 13)) := by
  unfold decode at h
  split at h
  · rename_i ho; obtain ⟨hr, rfl⟩ := unlessReserved_ok.mp h; exact .inl ⟨ho, hr, rfl⟩
  · rename_i ho; obtain ⟨hr, rfl⟩ := unlessReserved_ok.mp h; exact .inr (.inl ⟨ho, hr, rfl⟩)
  · rename_i ho; obtain ⟨hr, rfl⟩ := unlessReserved_ok.mp h; exact .inr (.inr (.inl ⟨ho, hr, rfl⟩))
  · rename_i ho; obtain ⟨hr, rfl⟩ := unlessReserved_ok.mp h; exact .inr (.inr (.inr (.inl ⟨ho, hr, rfl⟩)))
  · rename_i ho; obtain ⟨hr, rfl⟩ := unlessReserved_ok.mp h; exact .inr (.inr (.inr (.inr (.inl ⟨ho, hr, rfl⟩))))
  · rename_i ho; obtain ⟨hr, rfl⟩ := unlessReserved_ok.mp h; exact .inr (.inr (.inr (.inr (.inr (.inl ⟨ho, hr, rfl⟩)))))
  · rename_i ho; obtain ⟨hr, rfl⟩ := unlessReserved_ok.mp h; exact .inr (.inr (.inr (.inr (.inr (.inr ⟨ho, hr, rfl⟩)))))
  · cases h

/-! ## Fields of a packed word -/

/-- Bits `hi:lo` of a number split at `lo` and at `hi + 1`. -/
theorem slice_ofNat_split {n lo hi low v high : Nat} (hn : n = low + v * 2 ^ lo + high * 2 ^ (hi + 1)) (hlow : low < 2 ^ lo)
    (hv : v < 2 ^ (hi + 1 - lo)) (hlo : lo ≤ hi) (hhi : hi < 32) : slice (BitVec.ofNat 32 n) hi lo = v := by
  have h1 : 2 ^ (hi + 1) = 2 ^ lo * 2 ^ (hi + 1 - lo) := by rw [← Nat.pow_add]; congr 1; omega
  have h2 : (2 : Nat) ^ 32 = 2 ^ lo * (2 ^ (hi + 1 - lo) * 2 ^ (31 - hi)) := by
    rw [← Nat.mul_assoc, ← h1, ← Nat.pow_add]; congr 1; omega
  have h3 : n = low + 2 ^ lo * (v + 2 ^ (hi + 1 - lo) * high) := by rw [hn, h1]; ring
  rw [slice, BitVec.toNat_ofNat, h2, Nat.mod_mul_right_div_self, h3, Nat.add_mul_div_left _ _ (Nat.two_pow_pos lo),
    Nat.div_eq_of_lt hlow, Nat.zero_add, Nat.mod_mod_of_dvd _ (Nat.dvd_mul_right _ _), Nat.add_mul_mod_self_left,
    Nat.mod_eq_of_lt hv]

/-- Fields that all start at bit `b` or above pack to a multiple of `2 ^ b`. -/
theorem pack_multiple {b : Nat} {fields : List (Nat × Nat)} (h : ∀ f ∈ fields, b ≤ f.1) :
    ∃ c, fields.foldr (fun f rest => f.2 * 2 ^ f.1 + rest) 0 = c * 2 ^ b := by
  induction fields with
  | nil => exact ⟨0, by simp⟩
  | cons f fs ih =>
    obtain ⟨c, hc⟩ := ih fun g hg => h g (List.mem_cons_of_mem _ hg)
    have hb : 2 ^ f.1 = 2 ^ (f.1 - b) * 2 ^ b := by
      rw [← Nat.pow_add]; congr 1; have := h f List.mem_cons_self; omega
    exact ⟨f.2 * 2 ^ (f.1 - b) + c, by rw [List.foldr_cons, hc, hb]; ring⟩

/-- The first field of a packed word, when every later field starts above it. -/
theorem slice_pack_here {hi lo v : Nat} {rest : List (Nat × Nat)} (hr : ∀ f ∈ rest, hi + 1 ≤ f.1) (hv : v < 2 ^ (hi + 1 - lo))
    (hlo : lo ≤ hi) (hhi : hi < 32) : slice (pack ((lo, v) :: rest)) hi lo = v := by
  obtain ⟨c, hc⟩ := pack_multiple hr
  exact slice_ofNat_split (low := 0) (by rw [List.foldr_cons, hc, Nat.zero_add]) (Nat.two_pow_pos lo) hv hlo hhi

/-- A first field that ends below `lo` and below every later field can be dropped. -/
theorem slice_pack_skip {hi lo l v : Nat} {rest : List (Nat × Nat)} (hr : ∀ f ∈ rest, v * 2 ^ l < 2 ^ f.1) (hv : v * 2 ^ l < 2 ^ lo)
    (hlo : lo ≤ hi) (hhi : hi < 32) : slice (pack ((l, v) :: rest)) hi lo = slice (pack rest) hi lo := by
  obtain ⟨c, hc⟩ := pack_multiple (b := Nat.size (v * 2 ^ l)) fun f hf => Nat.size_le.mpr (hr f hf)
  have hb : v * 2 ^ l < 2 ^ Nat.size (v * 2 ^ l) := Nat.lt_size_self _
  have hle : Nat.size (v * 2 ^ l) ≤ lo := Nat.size_le.mpr hv
  rw [pack, pack, List.foldr_cons, hc]
  generalize v * 2 ^ l = x at *
  generalize Nat.size x = b at *
  obtain ⟨d, rfl⟩ := Nat.exists_eq_add_of_le hle
  have h32 : (2 : Nat) ^ 32 = 2 ^ (b + d) * 2 ^ (32 - (b + d)) := by rw [← Nat.pow_add]; congr 1; omega
  have hd : (x + c * 2 ^ b) / 2 ^ (b + d) = c * 2 ^ b / 2 ^ (b + d) := by
    rw [Nat.pow_add, ← Nat.div_div_eq_div_mul, ← Nat.div_div_eq_div_mul, Nat.add_mul_div_right _ _ (Nat.two_pow_pos b),
      Nat.div_eq_of_lt hb, Nat.zero_add, Nat.mul_div_cancel _ (Nat.two_pow_pos b)]
  simp only [slice, BitVec.toNat_ofNat]
  rw [h32, Nat.mod_mul_right_div_self, Nat.mod_mul_right_div_self, hd]

/-- Bits below every field are 0; so are all bits when no field is left. -/
theorem slice_pack_above {hi lo : Nat} {fields : List (Nat × Nat)} (hr : ∀ f ∈ fields, hi + 1 ≤ f.1) (hlo : lo ≤ hi) (hhi : hi < 32) :
    slice (pack fields) hi lo = 0 := by
  obtain ⟨c, hc⟩ := pack_multiple hr
  rw [pack, hc]
  exact slice_ofNat_split (low := 0) (v := 0) (high := c) (by simp) (Nat.two_pow_pos lo) (Nat.two_pow_pos _) hlo hhi

end Sys2Proof
end

