-- ==== Sys2Proof/Laws/Memory.lean ====
section
/-! SUPPORT. The laws of IBUF's memory: read after write, and that every operation keeps the canonical form. -/

namespace Sys2Proof.Machine

/-! ## Reading -/

@[simp] theorem Memory.read_nil (a : Nat) : Memory.read [] a = unlistedByte := rfl

theorem Memory.read_cons (k a : Nat) (b : Byte) (m : Memory) :
    Memory.read ((k, b) :: m) a = if k = a then b else m.read a := rfl

/-- Below its least index a canonical memory lists nothing. -/
theorem Memory.read_of_lt {lo a : Nat} {m : Memory} (h : m.wfFrom lo = true) (ha : a < lo) : m.read a = unlistedByte := by
  induction m generalizing lo with
  | nil => rfl
  | cons c m ih =>
    obtain ⟨k, b⟩ := c
    simp only [Memory.wfFrom, Bool.and_eq_true, decide_eq_true_eq] at h
    rw [Memory.read_cons, if_neg (by omega)]
    exact ih h.2 (by omega)

theorem Memory.wfFrom_mono {lo lo' : Nat} {m : Memory} (hlo : lo' ≤ lo) (h : m.wfFrom lo = true) : m.wfFrom lo' = true := by
  cases m with
  | nil => rfl
  | cons c m =>
    obtain ⟨k, b⟩ := c
    simp only [Memory.wfFrom, Bool.and_eq_true, decide_eq_true_eq] at h ⊢
    exact ⟨⟨⟨by omega, h.1.1.2⟩, h.1.2⟩, h.2⟩

/-! ## Writing one byte -/

theorem Memory.read_cell {a : Nat} {m : Memory} (b : Byte) (h : m.wfFrom (a + 1) = true) (a' : Nat) :
    (Memory.cell a b m).read a' = if a' = a then b else m.read a' := by
  unfold Memory.cell
  by_cases hb : b = unlistedByte
  · by_cases ha : a' = a
    · simp [hb, ha, Memory.read_of_lt h]
    · simp [hb, ha]
  · by_cases ha : a' = a
    · simp [hb, ha, Memory.read_cons]
    · simp [hb, ha, Memory.read_cons, Ne.symm ha]

/-- Everything a byte write does to what is read: the byte at its index is the one written, every other byte is as before. -/
theorem Memory.read_write {lo : Nat} {m : Memory} (h : m.wfFrom lo = true) (a : Nat) (b : Byte) (a' : Nat) :
    (m.write a b).read a' = if a' = a then b else m.read a' := by
  induction m generalizing lo with
  | nil =>
    simpa [Memory.write] using Memory.read_cell (m := []) b rfl a'
  | cons c m ih =>
    obtain ⟨k, d⟩ := c
    have h' := h
    simp only [Memory.wfFrom, Bool.and_eq_true, decide_eq_true_eq] at h
    rw [Memory.write]
    split
    · refine Memory.read_cell b ?_ a'
      simp only [Memory.wfFrom, Bool.and_eq_true, decide_eq_true_eq]
      exact ⟨⟨⟨by omega, h.1.1.2⟩, h.1.2⟩, h.2⟩
    · split
      · rename_i hak
        subst hak
        rw [Memory.read_cell b h.2]
        by_cases ha : a' = a
        · simp [ha]
        · simp [ha, Memory.read_cons, Ne.symm ha]
      · rename_i hlt hne
        rw [Memory.read_cons, ih h.2, Memory.read_cons]
        by_cases hk : k = a'
        · simp only [hk, if_true]
          rw [if_neg (by omega)]
        · simp [hk]

theorem Memory.wfFrom_cell {lo a : Nat} {m : Memory} (b : Byte) (hlo : lo ≤ a) (ha : a < Config.ibufBytes)
    (h : m.wfFrom (a + 1) = true) : (Memory.cell a b m).wfFrom lo = true := by
  unfold Memory.cell
  split
  · exact Memory.wfFrom_mono (by omega) h
  · rename_i hb
    simp only [Memory.wfFrom, Bool.and_eq_true, decide_eq_true_eq]
    exact ⟨⟨⟨hlo, ha⟩, hb⟩, h⟩

theorem Memory.wfFrom_write {lo a : Nat} {m : Memory} (b : Byte) (hlo : lo ≤ a) (ha : a < Config.ibufBytes)
    (h : m.wfFrom lo = true) : (m.write a b).wfFrom lo = true := by
  induction m generalizing lo with
  | nil => exact Memory.wfFrom_cell b hlo ha rfl
  | cons c m ih =>
    obtain ⟨k, d⟩ := c
    simp only [Memory.wfFrom, Bool.and_eq_true, decide_eq_true_eq] at h
    rw [Memory.write]
    split
    · refine Memory.wfFrom_cell b hlo ha ?_
      simp only [Memory.wfFrom, Bool.and_eq_true, decide_eq_true_eq]
      exact ⟨⟨⟨by omega, h.1.1.2⟩, h.1.2⟩, h.2⟩
    · split
      · rename_i hak
        subst hak
        exact Memory.wfFrom_cell b hlo ha h.2
      · simp only [Memory.wfFrom, Bool.and_eq_true, decide_eq_true_eq]
        exact ⟨h.1, ih (by omega) h.2⟩

/-- A byte write keeps the canonical form. -/
theorem Memory.wf_write {m : Memory} (h : m.wf = true) {a : Nat} (ha : a < Config.ibufBytes) (b : Byte) :
    (m.write a b).wf = true :=
  Memory.wfFrom_write b (Nat.zero_le a) ha h

theorem Memory.read_write_same {m : Memory} (h : m.wf = true) (a : Nat) (b : Byte) : (m.write a b).read a = b := by
  simp [Memory.read_write h]

theorem Memory.read_write_other {m : Memory} (h : m.wf = true) {a a' : Nat} (b : Byte) (hne : a' ≠ a) :
    (m.write a b).read a' = m.read a' := by
  simp [Memory.read_write h, hne]

/-- No byte beyond IBUF is listed (10_state.md R24). -/
theorem Memory.read_beyond {lo a : Nat} {m : Memory} (h : m.wfFrom lo = true) (ha : Config.ibufBytes ≤ a) :
    m.read a = unlistedByte := by
  induction m generalizing lo with
  | nil => rfl
  | cons c m ih =>
    obtain ⟨k, b⟩ := c
    simp only [Memory.wfFrom, Bool.and_eq_true, decide_eq_true_eq] at h
    rw [Memory.read_cons, if_neg (by omega)]
    exact ih h.2

/-- Equal bytes make equal memories: the canonical form is one form. -/
theorem Memory.ext_of_wfFrom {lo : Nat} {m m' : Memory} (h : m.wfFrom lo = true) (h' : m'.wfFrom lo = true)
    (hr : ∀ a, m.read a = m'.read a) : m = m' := by
  induction m generalizing lo m' with
  | nil =>
    cases m' with
    | nil => rfl
    | cons c m' =>
      obtain ⟨k, b⟩ := c
      simp only [Memory.wfFrom, Bool.and_eq_true, decide_eq_true_eq] at h'
      exact absurd (by simpa [Memory.read_cons] using (hr k).symm) h'.1.2
  | cons c m ih =>
    obtain ⟨k, b⟩ := c
    simp only [Memory.wfFrom, Bool.and_eq_true, decide_eq_true_eq] at h
    cases m' with
    | nil => exact absurd (by simpa [Memory.read_cons] using hr k) h.1.2
    | cons c' m' =>
      obtain ⟨k', b'⟩ := c'
      have hw' := h'
      simp only [Memory.wfFrom, Bool.and_eq_true, decide_eq_true_eq] at h'
      have hk : k = k' := by
        by_contra hne
        rcases Nat.lt_or_gt_of_ne hne with hlt | hgt
        · have := hr k
          rw [Memory.read_cons, if_pos rfl, Memory.read_cons, if_neg (by omega), Memory.read_of_lt h'.2 (by omega)] at this
          exact h.1.2 this
        · have := hr k'
          rw [Memory.read_cons, if_neg (by omega), Memory.read_of_lt h.2 (by omega), Memory.read_cons, if_pos rfl] at this
          exact h'.1.2 this.symm
      subst hk
      have hb : b = b' := by simpa [Memory.read_cons] using hr k
      subst hb
      refine congrArg _ (ih h.2 h'.2 fun a => ?_)
      have ha := hr a
      by_cases hka : k = a
      · subst hka
        rw [Memory.read_of_lt h.2 (by omega), Memory.read_of_lt h'.2 (by omega)]
      · simpa [Memory.read_cons, hka] using ha

/-! ## Words (20_memory.md R62) -/

/-- Everything a word write does to what is read: the four bytes of its lanes, and nothing else. -/
theorem Memory.read_writeWord {m : Memory} (h : m.wf = true) {k : Nat} (hk : k < 8) (v : Word) (a : Nat) :
    (m.writeWord k v).read a =
      if a = 4 * k then laneByte v 31 24
      else if a = 4 * k + 1 then laneByte v 23 16
      else if a = 4 * k + 2 then laneByte v 15 8
      else if a = 4 * k + 3 then laneByte v 7 0
      else m.read a := by
  have hi : ∀ j, j < 4 → 4 * k + j < Config.ibufBytes := by simp only [Config.ibufBytes]; omega
  have h0 := Memory.wf_write h (hi 0 (by omega)) (laneByte v 31 24)
  have h1 := Memory.wf_write h0 (hi 1 (by omega)) (laneByte v 23 16)
  have h2 := Memory.wf_write h1 (hi 2 (by omega)) (laneByte v 15 8)
  simp only [Nat.add_zero] at h0 h1 h2
  unfold Memory.writeWord
  rw [Memory.read_write h2, Memory.read_write h1, Memory.read_write h0, Memory.read_write h]
  by_cases e0 : a = 4 * k
  · simp [e0]
  by_cases e1 : a = 4 * k + 1
  · simp [e1]
  by_cases e2 : a = 4 * k + 2
  · simp [e2]
  by_cases e3 : a = 4 * k + 3
  · simp [e3]
  simp [e0, e1, e2, e3]

theorem Memory.wf_writeWord {m : Memory} (h : m.wf = true) {k : Nat} (hk : k < 8) (v : Word) : (m.writeWord k v).wf = true := by
  have hi : ∀ j, j < 4 → 4 * k + j < Config.ibufBytes := by simp only [Config.ibufBytes]; omega
  exact Memory.wf_write (Memory.wf_write (Memory.wf_write (Memory.wf_write h (hi 0 (by omega)) _) (hi 1 (by omega)) _)
    (hi 2 (by omega)) _) (hi 3 (by omega)) _

/-- What a word write leaves is read back whole (20_memory.md R62). -/
theorem Memory.readWord_writeWord {m : Memory} (h : m.wf = true) {k : Nat} (hk : k < 8) (v : Word) :
    (m.writeWord k v).readWord k = v := by
  apply BitVec.eq_of_toNat_eq
  simp [Memory.readWord, Memory.read_writeWord h hk, pack, laneByte, slice]
  have := v.isLt
  omega

/-! ## The reset draw (10_state.md R25) -/

/-- The first `n` bytes of a draw, as the fold of `drawIbuf` builds them. -/
theorem Memory.draw_prefix (f : Nat → Byte) (n : Nat) (hn : n ≤ Config.ibufBytes) :
    let m := (List.range n).foldl (fun m i => Memory.write m i (f i)) []
    m.wf = true ∧ ∀ a, m.read a = if a < n then f a else unlistedByte := by
  induction n with
  | zero => exact ⟨rfl, fun a => by simp⟩
  | succ n ih =>
    obtain ⟨hw, hr⟩ := ih (by omega)
    simp only [List.range_succ, List.foldl_append, List.foldl_cons, List.foldl_nil]
    refine ⟨Memory.wf_write hw (by omega) _, fun a => ?_⟩
    rw [Memory.read_write hw, hr]
    by_cases h1 : a = n
    · simp [h1]
    · by_cases h2 : a < n
      · simp [h1, h2, Nat.lt_succ_of_lt h2]
      · simp [h1, h2, show ¬ a < n + 1 by omega]

theorem drawIbuf_wf (n : Nat) : (drawIbuf n).wf = true := by
  rw [drawIbuf]
  exact (Memory.draw_prefix (Config.resetByte n) Config.ibufBytes le_rfl).1

theorem read_drawIbuf (n : Nat) {a : Nat} (ha : a < Config.ibufBytes) : (drawIbuf n).read a = Config.resetByte n a := by
  have h := (Memory.draw_prefix (Config.resetByte n) Config.ibufBytes le_rfl).2 a
  rw [if_pos ha] at h
  rw [drawIbuf]
  exact h

end Sys2Proof.Machine
end

