-- ==== Sys2Proof/Laws/Operands.lean ====
section
/-! SUPPORT. The Bit-Field Extractor's laws, and what the input window shows of IBUF (40_bitfield.md R101, 20_memory.md R68). -/

namespace Sys2Proof.Machine

theorem streamBit_lt (B : List Byte) (k : Nat) : streamBit B k < 2 := Nat.mod_lt _ (by omega)

@[simp] theorem bits_zero (B : List Byte) (o : Nat) : bits B o 0 = 0 := rfl

theorem bits_succ (B : List Byte) (o w : Nat) : bits B o (w + 1) = 2 * bits B o w + streamBit B (o + w) := rfl

/-- `0 <= bits_B(o, w) < 2^w` (40_bitfield.md R101). -/
theorem bits_lt (B : List Byte) (o w : Nat) : bits B o w < 2 ^ w := by
  induction w with
  | zero => simp
  | succ w ih =>
    have := streamBit_lt B (o + w)
    rw [bits_succ, Nat.pow_succ]
    omega

/-- The extractor reads the bits of its field and no others. -/
theorem bits_congr {B B' : List Byte} {o w : Nat} (h : ∀ j, j < w → streamBit B (o + j) = streamBit B' (o + j)) :
    bits B o w = bits B' o w := by
  induction w with
  | zero => rfl
  | succ w ih =>
    rw [bits_succ, bits_succ, ih fun j hj => h j (by omega), h w (by omega)]

@[simp] theorem Field.val_toNat (f : Field) (B : List Byte) : (f.val B).toNat = bits B f.offset f.width := by
  simp [Field.val, Nat.mod_eq_of_lt (bits_lt B f.offset f.width)]

theorem Field.num_lt (f : Field) (B : List Byte) : f.num B < 2 ^ f.width := bits_lt B f.offset f.width

/-- A one-bit field's flag, as the bit. -/
theorem Field.flag_toNat (f : Field) (B : List Byte) (h : f.width = 1) : (f.flag B).toNat = bits B f.offset f.width := by
  have hl := bits_lt B f.offset f.width
  rw [h] at hl
  unfold Field.flag
  rcases (show bits B f.offset f.width = 0 ∨ bits B f.offset f.width = 1 by rw [h]; omega) with e | e <;> rw [e] <;> rfl

/-- Two byte sequences with the same bits in a field have the same field. -/
theorem Field.congr {f : Field} {B B' : List Byte} (h : ∀ j, j < f.width → streamBit B (f.offset + j) = streamBit B' (f.offset + j)) :
    f.num B = f.num B' ∧ f.val B = f.val B' ∧ f.flag B = f.flag B' := by
  have e := bits_congr h
  exact ⟨e, by simp [Field.val, e], by simp [Field.flag, e]⟩

/-! ## The input window -/

@[simp] theorem State.inputBytes_length (s : State) : s.inputBytes.length = s.inputLength := by simp [State.inputBytes]

theorem State.inputBytes_getD (s : State) {i : Nat} (hi : i < s.inputLength) : s.inputBytes.getD i 0 = s.ibuf.read i := by
  simp [State.inputBytes, List.getD, hi]

/-- A stream bit inside the window is a bit of IBUF (00_scope.md R11). -/
theorem State.streamBit_inputBytes (s : State) {k : Nat} (hk : k < 8 * s.inputLength) :
    streamBit s.inputBytes k = (s.ibuf.read (k / 8)).toNat / 2 ^ (7 - k % 8) % 2 := by
  rw [streamBit, s.inputBytes_getD (by omega)]

/-- The window's bytes are those of IBUF below the length, and no others (20_memory.md R68). -/
theorem State.inputBytes_congr {s t : State} (hl : s.ilen = t.ilen) (h : ∀ a, a < s.inputLength → s.ibuf.read a = t.ibuf.read a) :
    s.inputBytes = t.inputBytes := by
  have hn : t.inputLength = s.inputLength := by simp [State.inputLength, hl]
  unfold State.inputBytes
  rw [hn]
  exact List.map_congr_left fun a ha => h a (List.mem_range.mp ha)

end Sys2Proof.Machine
end

