-- ==== Sys2Proof/Laws/State.lean ====
section
/-! SUPPORT. One lemma per field per update of the state, each true by rfl. -/

namespace Sys2Proof.Machine

variable (s : State)

/-! ### accept -/

@[simp] theorem State.accept_lcmd (w : Word) : (s.accept w).lcmd = w := rfl
@[simp] theorem State.accept_busy (w : Word) : (s.accept w).busy = true := rfl
@[simp] theorem State.accept_done (w : Word) : (s.accept w).done = false := rfl
@[simp] theorem State.accept_err (w : Word) : (s.accept w).err = false := rfl
@[simp] theorem State.accept_errcode (w : Word) : (s.accept w).errcode = 0#4 := rfl
@[simp] theorem State.accept_extValid (w : Word) : (s.accept w).extValid = s.extValid := rfl
@[simp] theorem State.accept_lutValid (w : Word) : (s.accept w).lutValid = s.lutValid := rfl
@[simp] theorem State.accept_hdrValid (w : Word) : (s.accept w).hdrValid = s.hdrValid := rfl
@[simp] theorem State.accept_siValid (w : Word) : (s.accept w).siValid = s.siValid := rfl
@[simp] theorem State.accept_chValid (w : Word) : (s.accept w).chValid = s.chValid := rfl
@[simp] theorem State.accept_overrun (w : Word) : (s.accept w).overrun = s.overrun := rfl
@[simp] theorem State.accept_ilen (w : Word) : (s.accept w).ilen = s.ilen := rfl
@[simp] theorem State.accept_ibuf (w : Word) : (s.accept w).ibuf = s.ibuf := rfl
@[simp] theorem State.accept_extr (w : Word) : (s.accept w).extr = s.extr := rfl
@[simp] theorem State.accept_lutr (w : Word) : (s.accept w).lutr = s.lutr := rfl
@[simp] theorem State.accept_hdr0 (w : Word) : (s.accept w).hdr0 = s.hdr0 := rfl
@[simp] theorem State.accept_hdr1 (w : Word) : (s.accept w).hdr1 = s.hdr1 := rfl
@[simp] theorem State.accept_hdr2 (w : Word) : (s.accept w).hdr2 = s.hdr2 := rfl
@[simp] theorem State.accept_si0 (w : Word) : (s.accept w).si0 = s.si0 := rfl
@[simp] theorem State.accept_ch0 (w : Word) : (s.accept w).ch0 = s.ch0 := rfl
@[simp] theorem State.accept_ch1 (w : Word) : (s.accept w).ch1 = s.ch1 := rfl
@[simp] theorem State.accept_ch2 (w : Word) : (s.accept w).ch2 = s.ch2 := rfl
@[simp] theorem State.accept_ch3 (w : Word) : (s.accept w).ch3 = s.ch3 := rfl
@[simp] theorem State.accept_hostProg (w : Word) : (s.accept w).hostProg = s.hostProg := rfl
@[simp] theorem State.accept_turns (w : Word) : (s.accept w).turns = s.turns := rfl
@[simp] theorem State.accept_trace (w : Word) : (s.accept w).trace = s.trace := rfl
@[simp] theorem State.accept_draws (w : Word) : (s.accept w).draws = s.draws := rfl

/-! ### succeed -/

@[simp] theorem State.succeed_lcmd : s.succeed.lcmd = s.lcmd := rfl
@[simp] theorem State.succeed_busy : s.succeed.busy = false := rfl
@[simp] theorem State.succeed_done : s.succeed.done = true := rfl
@[simp] theorem State.succeed_err : s.succeed.err = false := rfl
@[simp] theorem State.succeed_errcode : s.succeed.errcode = 0#4 := rfl
@[simp] theorem State.succeed_extValid : s.succeed.extValid = s.extValid := rfl
@[simp] theorem State.succeed_lutValid : s.succeed.lutValid = s.lutValid := rfl
@[simp] theorem State.succeed_hdrValid : s.succeed.hdrValid = s.hdrValid := rfl
@[simp] theorem State.succeed_siValid : s.succeed.siValid = s.siValid := rfl
@[simp] theorem State.succeed_chValid : s.succeed.chValid = s.chValid := rfl
@[simp] theorem State.succeed_overrun : s.succeed.overrun = s.overrun := rfl
@[simp] theorem State.succeed_ilen : s.succeed.ilen = s.ilen := rfl
@[simp] theorem State.succeed_ibuf : s.succeed.ibuf = s.ibuf := rfl
@[simp] theorem State.succeed_extr : s.succeed.extr = s.extr := rfl
@[simp] theorem State.succeed_lutr : s.succeed.lutr = s.lutr := rfl
@[simp] theorem State.succeed_hdr0 : s.succeed.hdr0 = s.hdr0 := rfl
@[simp] theorem State.succeed_hdr1 : s.succeed.hdr1 = s.hdr1 := rfl
@[simp] theorem State.succeed_hdr2 : s.succeed.hdr2 = s.hdr2 := rfl
@[simp] theorem State.succeed_si0 : s.succeed.si0 = s.si0 := rfl
@[simp] theorem State.succeed_ch0 : s.succeed.ch0 = s.ch0 := rfl
@[simp] theorem State.succeed_ch1 : s.succeed.ch1 = s.ch1 := rfl
@[simp] theorem State.succeed_ch2 : s.succeed.ch2 = s.ch2 := rfl
@[simp] theorem State.succeed_ch3 : s.succeed.ch3 = s.ch3 := rfl
@[simp] theorem State.succeed_hostProg : s.succeed.hostProg = s.hostProg := rfl
@[simp] theorem State.succeed_turns : s.succeed.turns = s.turns := rfl
@[simp] theorem State.succeed_trace : s.succeed.trace = s.trace := rfl
@[simp] theorem State.succeed_draws : s.succeed.draws = s.draws := rfl

/-! ### fail -/

@[simp] theorem State.fail_lcmd (e : Failure) : (s.fail e).lcmd = s.lcmd := rfl
@[simp] theorem State.fail_busy (e : Failure) : (s.fail e).busy = false := rfl
@[simp] theorem State.fail_done (e : Failure) : (s.fail e).done = true := rfl
@[simp] theorem State.fail_err (e : Failure) : (s.fail e).err = true := rfl
@[simp] theorem State.fail_errcode (e : Failure) : (s.fail e).errcode = e.code := rfl
@[simp] theorem State.fail_extValid (e : Failure) : (s.fail e).extValid = s.extValid := rfl
@[simp] theorem State.fail_lutValid (e : Failure) : (s.fail e).lutValid = s.lutValid := rfl
@[simp] theorem State.fail_hdrValid (e : Failure) : (s.fail e).hdrValid = s.hdrValid := rfl
@[simp] theorem State.fail_siValid (e : Failure) : (s.fail e).siValid = s.siValid := rfl
@[simp] theorem State.fail_chValid (e : Failure) : (s.fail e).chValid = s.chValid := rfl
@[simp] theorem State.fail_overrun (e : Failure) : (s.fail e).overrun = s.overrun := rfl
@[simp] theorem State.fail_ilen (e : Failure) : (s.fail e).ilen = s.ilen := rfl
@[simp] theorem State.fail_ibuf (e : Failure) : (s.fail e).ibuf = s.ibuf := rfl
@[simp] theorem State.fail_extr (e : Failure) : (s.fail e).extr = s.extr := rfl
@[simp] theorem State.fail_lutr (e : Failure) : (s.fail e).lutr = s.lutr := rfl
@[simp] theorem State.fail_hdr0 (e : Failure) : (s.fail e).hdr0 = s.hdr0 := rfl
@[simp] theorem State.fail_hdr1 (e : Failure) : (s.fail e).hdr1 = s.hdr1 := rfl
@[simp] theorem State.fail_hdr2 (e : Failure) : (s.fail e).hdr2 = s.hdr2 := rfl
@[simp] theorem State.fail_si0 (e : Failure) : (s.fail e).si0 = s.si0 := rfl
@[simp] theorem State.fail_ch0 (e : Failure) : (s.fail e).ch0 = s.ch0 := rfl
@[simp] theorem State.fail_ch1 (e : Failure) : (s.fail e).ch1 = s.ch1 := rfl
@[simp] theorem State.fail_ch2 (e : Failure) : (s.fail e).ch2 = s.ch2 := rfl
@[simp] theorem State.fail_ch3 (e : Failure) : (s.fail e).ch3 = s.ch3 := rfl
@[simp] theorem State.fail_hostProg (e : Failure) : (s.fail e).hostProg = s.hostProg := rfl
@[simp] theorem State.fail_turns (e : Failure) : (s.fail e).turns = s.turns := rfl
@[simp] theorem State.fail_trace (e : Failure) : (s.fail e).trace = s.trace := rfl
@[simp] theorem State.fail_draws (e : Failure) : (s.fail e).draws = s.draws := rfl

/-! ### markOverrun -/

@[simp] theorem State.markOverrun_lcmd : s.markOverrun.lcmd = s.lcmd := rfl
@[simp] theorem State.markOverrun_busy : s.markOverrun.busy = s.busy := rfl
@[simp] theorem State.markOverrun_done : s.markOverrun.done = s.done := rfl
@[simp] theorem State.markOverrun_err : s.markOverrun.err = s.err := rfl
@[simp] theorem State.markOverrun_errcode : s.markOverrun.errcode = s.errcode := rfl
@[simp] theorem State.markOverrun_extValid : s.markOverrun.extValid = s.extValid := rfl
@[simp] theorem State.markOverrun_lutValid : s.markOverrun.lutValid = s.lutValid := rfl
@[simp] theorem State.markOverrun_hdrValid : s.markOverrun.hdrValid = s.hdrValid := rfl
@[simp] theorem State.markOverrun_siValid : s.markOverrun.siValid = s.siValid := rfl
@[simp] theorem State.markOverrun_chValid : s.markOverrun.chValid = s.chValid := rfl
@[simp] theorem State.markOverrun_overrun : s.markOverrun.overrun = true := rfl
@[simp] theorem State.markOverrun_ilen : s.markOverrun.ilen = s.ilen := rfl
@[simp] theorem State.markOverrun_ibuf : s.markOverrun.ibuf = s.ibuf := rfl
@[simp] theorem State.markOverrun_extr : s.markOverrun.extr = s.extr := rfl
@[simp] theorem State.markOverrun_lutr : s.markOverrun.lutr = s.lutr := rfl
@[simp] theorem State.markOverrun_hdr0 : s.markOverrun.hdr0 = s.hdr0 := rfl
@[simp] theorem State.markOverrun_hdr1 : s.markOverrun.hdr1 = s.hdr1 := rfl
@[simp] theorem State.markOverrun_hdr2 : s.markOverrun.hdr2 = s.hdr2 := rfl
@[simp] theorem State.markOverrun_si0 : s.markOverrun.si0 = s.si0 := rfl
@[simp] theorem State.markOverrun_ch0 : s.markOverrun.ch0 = s.ch0 := rfl
@[simp] theorem State.markOverrun_ch1 : s.markOverrun.ch1 = s.ch1 := rfl
@[simp] theorem State.markOverrun_ch2 : s.markOverrun.ch2 = s.ch2 := rfl
@[simp] theorem State.markOverrun_ch3 : s.markOverrun.ch3 = s.ch3 := rfl
@[simp] theorem State.markOverrun_hostProg : s.markOverrun.hostProg = s.hostProg := rfl
@[simp] theorem State.markOverrun_turns : s.markOverrun.turns = s.turns := rfl
@[simp] theorem State.markOverrun_trace : s.markOverrun.trace = s.trace := rfl
@[simp] theorem State.markOverrun_draws : s.markOverrun.draws = s.draws := rfl

/-! ### writeStatus -/

@[simp] theorem State.writeStatus_lcmd (v : Word) : (s.writeStatus v).lcmd = s.lcmd := rfl
@[simp] theorem State.writeStatus_busy (v : Word) : (s.writeStatus v).busy = s.busy := rfl
@[simp] theorem State.writeStatus_done (v : Word) : (s.writeStatus v).done = s.done := rfl
@[simp] theorem State.writeStatus_err (v : Word) : (s.writeStatus v).err = s.err := rfl
@[simp] theorem State.writeStatus_errcode (v : Word) : (s.writeStatus v).errcode = s.errcode := rfl
@[simp] theorem State.writeStatus_extValid (v : Word) : (s.writeStatus v).extValid = s.extValid := rfl
@[simp] theorem State.writeStatus_lutValid (v : Word) : (s.writeStatus v).lutValid = s.lutValid := rfl
@[simp] theorem State.writeStatus_hdrValid (v : Word) : (s.writeStatus v).hdrValid = s.hdrValid := rfl
@[simp] theorem State.writeStatus_siValid (v : Word) : (s.writeStatus v).siValid = s.siValid := rfl
@[simp] theorem State.writeStatus_chValid (v : Word) : (s.writeStatus v).chValid = s.chValid := rfl
@[simp] theorem State.writeStatus_overrun (v : Word) : (s.writeStatus v).overrun = (s.overrun && decide (slice v 16 16 = 0)) := rfl
@[simp] theorem State.writeStatus_ilen (v : Word) : (s.writeStatus v).ilen = s.ilen := rfl
@[simp] theorem State.writeStatus_ibuf (v : Word) : (s.writeStatus v).ibuf = s.ibuf := rfl
@[simp] theorem State.writeStatus_extr (v : Word) : (s.writeStatus v).extr = s.extr := rfl
@[simp] theorem State.writeStatus_lutr (v : Word) : (s.writeStatus v).lutr = s.lutr := rfl
@[simp] theorem State.writeStatus_hdr0 (v : Word) : (s.writeStatus v).hdr0 = s.hdr0 := rfl
@[simp] theorem State.writeStatus_hdr1 (v : Word) : (s.writeStatus v).hdr1 = s.hdr1 := rfl
@[simp] theorem State.writeStatus_hdr2 (v : Word) : (s.writeStatus v).hdr2 = s.hdr2 := rfl
@[simp] theorem State.writeStatus_si0 (v : Word) : (s.writeStatus v).si0 = s.si0 := rfl
@[simp] theorem State.writeStatus_ch0 (v : Word) : (s.writeStatus v).ch0 = s.ch0 := rfl
@[simp] theorem State.writeStatus_ch1 (v : Word) : (s.writeStatus v).ch1 = s.ch1 := rfl
@[simp] theorem State.writeStatus_ch2 (v : Word) : (s.writeStatus v).ch2 = s.ch2 := rfl
@[simp] theorem State.writeStatus_ch3 (v : Word) : (s.writeStatus v).ch3 = s.ch3 := rfl
@[simp] theorem State.writeStatus_hostProg (v : Word) : (s.writeStatus v).hostProg = s.hostProg := rfl
@[simp] theorem State.writeStatus_turns (v : Word) : (s.writeStatus v).turns = s.turns := rfl
@[simp] theorem State.writeStatus_trace (v : Word) : (s.writeStatus v).trace = s.trace := rfl
@[simp] theorem State.writeStatus_draws (v : Word) : (s.writeStatus v).draws = s.draws := rfl

/-! ### setIlen -/

@[simp] theorem State.setIlen_lcmd (v : Word) : (s.setIlen v).lcmd = s.lcmd := rfl
@[simp] theorem State.setIlen_busy (v : Word) : (s.setIlen v).busy = s.busy := rfl
@[simp] theorem State.setIlen_done (v : Word) : (s.setIlen v).done = s.done := rfl
@[simp] theorem State.setIlen_err (v : Word) : (s.setIlen v).err = s.err := rfl
@[simp] theorem State.setIlen_errcode (v : Word) : (s.setIlen v).errcode = s.errcode := rfl
@[simp] theorem State.setIlen_extValid (v : Word) : (s.setIlen v).extValid = s.extValid := rfl
@[simp] theorem State.setIlen_lutValid (v : Word) : (s.setIlen v).lutValid = s.lutValid := rfl
@[simp] theorem State.setIlen_hdrValid (v : Word) : (s.setIlen v).hdrValid = s.hdrValid := rfl
@[simp] theorem State.setIlen_siValid (v : Word) : (s.setIlen v).siValid = s.siValid := rfl
@[simp] theorem State.setIlen_chValid (v : Word) : (s.setIlen v).chValid = s.chValid := rfl
@[simp] theorem State.setIlen_overrun (v : Word) : (s.setIlen v).overrun = s.overrun := rfl
@[simp] theorem State.setIlen_ilen (v : Word) : (s.setIlen v).ilen = BitVec.ofNat 6 (slice v 5 0) := rfl
@[simp] theorem State.setIlen_ibuf (v : Word) : (s.setIlen v).ibuf = s.ibuf := rfl
@[simp] theorem State.setIlen_extr (v : Word) : (s.setIlen v).extr = s.extr := rfl
@[simp] theorem State.setIlen_lutr (v : Word) : (s.setIlen v).lutr = s.lutr := rfl
@[simp] theorem State.setIlen_hdr0 (v : Word) : (s.setIlen v).hdr0 = s.hdr0 := rfl
@[simp] theorem State.setIlen_hdr1 (v : Word) : (s.setIlen v).hdr1 = s.hdr1 := rfl
@[simp] theorem State.setIlen_hdr2 (v : Word) : (s.setIlen v).hdr2 = s.hdr2 := rfl
@[simp] theorem State.setIlen_si0 (v : Word) : (s.setIlen v).si0 = s.si0 := rfl
@[simp] theorem State.setIlen_ch0 (v : Word) : (s.setIlen v).ch0 = s.ch0 := rfl
@[simp] theorem State.setIlen_ch1 (v : Word) : (s.setIlen v).ch1 = s.ch1 := rfl
@[simp] theorem State.setIlen_ch2 (v : Word) : (s.setIlen v).ch2 = s.ch2 := rfl
@[simp] theorem State.setIlen_ch3 (v : Word) : (s.setIlen v).ch3 = s.ch3 := rfl
@[simp] theorem State.setIlen_hostProg (v : Word) : (s.setIlen v).hostProg = s.hostProg := rfl
@[simp] theorem State.setIlen_turns (v : Word) : (s.setIlen v).turns = s.turns := rfl
@[simp] theorem State.setIlen_trace (v : Word) : (s.setIlen v).trace = s.trace := rfl
@[simp] theorem State.setIlen_draws (v : Word) : (s.setIlen v).draws = s.draws := rfl

/-! ### setIbuf -/

@[simp] theorem State.setIbuf_lcmd (m : Memory) : (s.setIbuf m).lcmd = s.lcmd := rfl
@[simp] theorem State.setIbuf_busy (m : Memory) : (s.setIbuf m).busy = s.busy := rfl
@[simp] theorem State.setIbuf_done (m : Memory) : (s.setIbuf m).done = s.done := rfl
@[simp] theorem State.setIbuf_err (m : Memory) : (s.setIbuf m).err = s.err := rfl
@[simp] theorem State.setIbuf_errcode (m : Memory) : (s.setIbuf m).errcode = s.errcode := rfl
@[simp] theorem State.setIbuf_extValid (m : Memory) : (s.setIbuf m).extValid = s.extValid := rfl
@[simp] theorem State.setIbuf_lutValid (m : Memory) : (s.setIbuf m).lutValid = s.lutValid := rfl
@[simp] theorem State.setIbuf_hdrValid (m : Memory) : (s.setIbuf m).hdrValid = s.hdrValid := rfl
@[simp] theorem State.setIbuf_siValid (m : Memory) : (s.setIbuf m).siValid = s.siValid := rfl
@[simp] theorem State.setIbuf_chValid (m : Memory) : (s.setIbuf m).chValid = s.chValid := rfl
@[simp] theorem State.setIbuf_overrun (m : Memory) : (s.setIbuf m).overrun = s.overrun := rfl
@[simp] theorem State.setIbuf_ilen (m : Memory) : (s.setIbuf m).ilen = s.ilen := rfl
@[simp] theorem State.setIbuf_ibuf (m : Memory) : (s.setIbuf m).ibuf = m := rfl
@[simp] theorem State.setIbuf_extr (m : Memory) : (s.setIbuf m).extr = s.extr := rfl
@[simp] theorem State.setIbuf_lutr (m : Memory) : (s.setIbuf m).lutr = s.lutr := rfl
@[simp] theorem State.setIbuf_hdr0 (m : Memory) : (s.setIbuf m).hdr0 = s.hdr0 := rfl
@[simp] theorem State.setIbuf_hdr1 (m : Memory) : (s.setIbuf m).hdr1 = s.hdr1 := rfl
@[simp] theorem State.setIbuf_hdr2 (m : Memory) : (s.setIbuf m).hdr2 = s.hdr2 := rfl
@[simp] theorem State.setIbuf_si0 (m : Memory) : (s.setIbuf m).si0 = s.si0 := rfl
@[simp] theorem State.setIbuf_ch0 (m : Memory) : (s.setIbuf m).ch0 = s.ch0 := rfl
@[simp] theorem State.setIbuf_ch1 (m : Memory) : (s.setIbuf m).ch1 = s.ch1 := rfl
@[simp] theorem State.setIbuf_ch2 (m : Memory) : (s.setIbuf m).ch2 = s.ch2 := rfl
@[simp] theorem State.setIbuf_ch3 (m : Memory) : (s.setIbuf m).ch3 = s.ch3 := rfl
@[simp] theorem State.setIbuf_hostProg (m : Memory) : (s.setIbuf m).hostProg = s.hostProg := rfl
@[simp] theorem State.setIbuf_turns (m : Memory) : (s.setIbuf m).turns = s.turns := rfl
@[simp] theorem State.setIbuf_trace (m : Memory) : (s.setIbuf m).trace = s.trace := rfl
@[simp] theorem State.setIbuf_draws (m : Memory) : (s.setIbuf m).draws = s.draws := rfl

/-! ### writeExt -/

@[simp] theorem State.writeExt_lcmd (b : Bool) (x : Word) : (s.writeResult (.ext x) b).lcmd = s.lcmd := rfl
@[simp] theorem State.writeExt_busy (b : Bool) (x : Word) : (s.writeResult (.ext x) b).busy = s.busy := rfl
@[simp] theorem State.writeExt_done (b : Bool) (x : Word) : (s.writeResult (.ext x) b).done = s.done := rfl
@[simp] theorem State.writeExt_err (b : Bool) (x : Word) : (s.writeResult (.ext x) b).err = s.err := rfl
@[simp] theorem State.writeExt_errcode (b : Bool) (x : Word) : (s.writeResult (.ext x) b).errcode = s.errcode := rfl
@[simp] theorem State.writeExt_extValid (b : Bool) (x : Word) : (s.writeResult (.ext x) b).extValid = b := rfl
@[simp] theorem State.writeExt_lutValid (b : Bool) (x : Word) : (s.writeResult (.ext x) b).lutValid = s.lutValid := rfl
@[simp] theorem State.writeExt_hdrValid (b : Bool) (x : Word) : (s.writeResult (.ext x) b).hdrValid = s.hdrValid := rfl
@[simp] theorem State.writeExt_siValid (b : Bool) (x : Word) : (s.writeResult (.ext x) b).siValid = s.siValid := rfl
@[simp] theorem State.writeExt_chValid (b : Bool) (x : Word) : (s.writeResult (.ext x) b).chValid = s.chValid := rfl
@[simp] theorem State.writeExt_overrun (b : Bool) (x : Word) : (s.writeResult (.ext x) b).overrun = s.overrun := rfl
@[simp] theorem State.writeExt_ilen (b : Bool) (x : Word) : (s.writeResult (.ext x) b).ilen = s.ilen := rfl
@[simp] theorem State.writeExt_ibuf (b : Bool) (x : Word) : (s.writeResult (.ext x) b).ibuf = s.ibuf := rfl
@[simp] theorem State.writeExt_extr (b : Bool) (x : Word) : (s.writeResult (.ext x) b).extr = x := rfl
@[simp] theorem State.writeExt_lutr (b : Bool) (x : Word) : (s.writeResult (.ext x) b).lutr = s.lutr := rfl
@[simp] theorem State.writeExt_hdr0 (b : Bool) (x : Word) : (s.writeResult (.ext x) b).hdr0 = s.hdr0 := rfl
@[simp] theorem State.writeExt_hdr1 (b : Bool) (x : Word) : (s.writeResult (.ext x) b).hdr1 = s.hdr1 := rfl
@[simp] theorem State.writeExt_hdr2 (b : Bool) (x : Word) : (s.writeResult (.ext x) b).hdr2 = s.hdr2 := rfl
@[simp] theorem State.writeExt_si0 (b : Bool) (x : Word) : (s.writeResult (.ext x) b).si0 = s.si0 := rfl
@[simp] theorem State.writeExt_ch0 (b : Bool) (x : Word) : (s.writeResult (.ext x) b).ch0 = s.ch0 := rfl
@[simp] theorem State.writeExt_ch1 (b : Bool) (x : Word) : (s.writeResult (.ext x) b).ch1 = s.ch1 := rfl
@[simp] theorem State.writeExt_ch2 (b : Bool) (x : Word) : (s.writeResult (.ext x) b).ch2 = s.ch2 := rfl
@[simp] theorem State.writeExt_ch3 (b : Bool) (x : Word) : (s.writeResult (.ext x) b).ch3 = s.ch3 := rfl
@[simp] theorem State.writeExt_hostProg (b : Bool) (x : Word) : (s.writeResult (.ext x) b).hostProg = s.hostProg := rfl
@[simp] theorem State.writeExt_turns (b : Bool) (x : Word) : (s.writeResult (.ext x) b).turns = s.turns := rfl
@[simp] theorem State.writeExt_trace (b : Bool) (x : Word) : (s.writeResult (.ext x) b).trace = s.trace := rfl
@[simp] theorem State.writeExt_draws (b : Bool) (x : Word) : (s.writeResult (.ext x) b).draws = s.draws := rfl

/-! ### writeLut -/

@[simp] theorem State.writeLut_lcmd (b : Bool) (x : Word) : (s.writeResult (.lut x) b).lcmd = s.lcmd := rfl
@[simp] theorem State.writeLut_busy (b : Bool) (x : Word) : (s.writeResult (.lut x) b).busy = s.busy := rfl
@[simp] theorem State.writeLut_done (b : Bool) (x : Word) : (s.writeResult (.lut x) b).done = s.done := rfl
@[simp] theorem State.writeLut_err (b : Bool) (x : Word) : (s.writeResult (.lut x) b).err = s.err := rfl
@[simp] theorem State.writeLut_errcode (b : Bool) (x : Word) : (s.writeResult (.lut x) b).errcode = s.errcode := rfl
@[simp] theorem State.writeLut_extValid (b : Bool) (x : Word) : (s.writeResult (.lut x) b).extValid = s.extValid := rfl
@[simp] theorem State.writeLut_lutValid (b : Bool) (x : Word) : (s.writeResult (.lut x) b).lutValid = b := rfl
@[simp] theorem State.writeLut_hdrValid (b : Bool) (x : Word) : (s.writeResult (.lut x) b).hdrValid = s.hdrValid := rfl
@[simp] theorem State.writeLut_siValid (b : Bool) (x : Word) : (s.writeResult (.lut x) b).siValid = s.siValid := rfl
@[simp] theorem State.writeLut_chValid (b : Bool) (x : Word) : (s.writeResult (.lut x) b).chValid = s.chValid := rfl
@[simp] theorem State.writeLut_overrun (b : Bool) (x : Word) : (s.writeResult (.lut x) b).overrun = s.overrun := rfl
@[simp] theorem State.writeLut_ilen (b : Bool) (x : Word) : (s.writeResult (.lut x) b).ilen = s.ilen := rfl
@[simp] theorem State.writeLut_ibuf (b : Bool) (x : Word) : (s.writeResult (.lut x) b).ibuf = s.ibuf := rfl
@[simp] theorem State.writeLut_extr (b : Bool) (x : Word) : (s.writeResult (.lut x) b).extr = s.extr := rfl
@[simp] theorem State.writeLut_lutr (b : Bool) (x : Word) : (s.writeResult (.lut x) b).lutr = x := rfl
@[simp] theorem State.writeLut_hdr0 (b : Bool) (x : Word) : (s.writeResult (.lut x) b).hdr0 = s.hdr0 := rfl
@[simp] theorem State.writeLut_hdr1 (b : Bool) (x : Word) : (s.writeResult (.lut x) b).hdr1 = s.hdr1 := rfl
@[simp] theorem State.writeLut_hdr2 (b : Bool) (x : Word) : (s.writeResult (.lut x) b).hdr2 = s.hdr2 := rfl
@[simp] theorem State.writeLut_si0 (b : Bool) (x : Word) : (s.writeResult (.lut x) b).si0 = s.si0 := rfl
@[simp] theorem State.writeLut_ch0 (b : Bool) (x : Word) : (s.writeResult (.lut x) b).ch0 = s.ch0 := rfl
@[simp] theorem State.writeLut_ch1 (b : Bool) (x : Word) : (s.writeResult (.lut x) b).ch1 = s.ch1 := rfl
@[simp] theorem State.writeLut_ch2 (b : Bool) (x : Word) : (s.writeResult (.lut x) b).ch2 = s.ch2 := rfl
@[simp] theorem State.writeLut_ch3 (b : Bool) (x : Word) : (s.writeResult (.lut x) b).ch3 = s.ch3 := rfl
@[simp] theorem State.writeLut_hostProg (b : Bool) (x : Word) : (s.writeResult (.lut x) b).hostProg = s.hostProg := rfl
@[simp] theorem State.writeLut_turns (b : Bool) (x : Word) : (s.writeResult (.lut x) b).turns = s.turns := rfl
@[simp] theorem State.writeLut_trace (b : Bool) (x : Word) : (s.writeResult (.lut x) b).trace = s.trace := rfl
@[simp] theorem State.writeLut_draws (b : Bool) (x : Word) : (s.writeResult (.lut x) b).draws = s.draws := rfl

/-! ### writeHdr -/

@[simp] theorem State.writeHdr_lcmd (b : Bool) (x y z : Word) : (s.writeResult (.hdr x y z) b).lcmd = s.lcmd := rfl
@[simp] theorem State.writeHdr_busy (b : Bool) (x y z : Word) : (s.writeResult (.hdr x y z) b).busy = s.busy := rfl
@[simp] theorem State.writeHdr_done (b : Bool) (x y z : Word) : (s.writeResult (.hdr x y z) b).done = s.done := rfl
@[simp] theorem State.writeHdr_err (b : Bool) (x y z : Word) : (s.writeResult (.hdr x y z) b).err = s.err := rfl
@[simp] theorem State.writeHdr_errcode (b : Bool) (x y z : Word) : (s.writeResult (.hdr x y z) b).errcode = s.errcode := rfl
@[simp] theorem State.writeHdr_extValid (b : Bool) (x y z : Word) : (s.writeResult (.hdr x y z) b).extValid = s.extValid := rfl
@[simp] theorem State.writeHdr_lutValid (b : Bool) (x y z : Word) : (s.writeResult (.hdr x y z) b).lutValid = s.lutValid := rfl
@[simp] theorem State.writeHdr_hdrValid (b : Bool) (x y z : Word) : (s.writeResult (.hdr x y z) b).hdrValid = b := rfl
@[simp] theorem State.writeHdr_siValid (b : Bool) (x y z : Word) : (s.writeResult (.hdr x y z) b).siValid = s.siValid := rfl
@[simp] theorem State.writeHdr_chValid (b : Bool) (x y z : Word) : (s.writeResult (.hdr x y z) b).chValid = s.chValid := rfl
@[simp] theorem State.writeHdr_overrun (b : Bool) (x y z : Word) : (s.writeResult (.hdr x y z) b).overrun = s.overrun := rfl
@[simp] theorem State.writeHdr_ilen (b : Bool) (x y z : Word) : (s.writeResult (.hdr x y z) b).ilen = s.ilen := rfl
@[simp] theorem State.writeHdr_ibuf (b : Bool) (x y z : Word) : (s.writeResult (.hdr x y z) b).ibuf = s.ibuf := rfl
@[simp] theorem State.writeHdr_extr (b : Bool) (x y z : Word) : (s.writeResult (.hdr x y z) b).extr = s.extr := rfl
@[simp] theorem State.writeHdr_lutr (b : Bool) (x y z : Word) : (s.writeResult (.hdr x y z) b).lutr = s.lutr := rfl
@[simp] theorem State.writeHdr_hdr0 (b : Bool) (x y z : Word) : (s.writeResult (.hdr x y z) b).hdr0 = x := rfl
@[simp] theorem State.writeHdr_hdr1 (b : Bool) (x y z : Word) : (s.writeResult (.hdr x y z) b).hdr1 = y := rfl
@[simp] theorem State.writeHdr_hdr2 (b : Bool) (x y z : Word) : (s.writeResult (.hdr x y z) b).hdr2 = z := rfl
@[simp] theorem State.writeHdr_si0 (b : Bool) (x y z : Word) : (s.writeResult (.hdr x y z) b).si0 = s.si0 := rfl
@[simp] theorem State.writeHdr_ch0 (b : Bool) (x y z : Word) : (s.writeResult (.hdr x y z) b).ch0 = s.ch0 := rfl
@[simp] theorem State.writeHdr_ch1 (b : Bool) (x y z : Word) : (s.writeResult (.hdr x y z) b).ch1 = s.ch1 := rfl
@[simp] theorem State.writeHdr_ch2 (b : Bool) (x y z : Word) : (s.writeResult (.hdr x y z) b).ch2 = s.ch2 := rfl
@[simp] theorem State.writeHdr_ch3 (b : Bool) (x y z : Word) : (s.writeResult (.hdr x y z) b).ch3 = s.ch3 := rfl
@[simp] theorem State.writeHdr_hostProg (b : Bool) (x y z : Word) : (s.writeResult (.hdr x y z) b).hostProg = s.hostProg := rfl
@[simp] theorem State.writeHdr_turns (b : Bool) (x y z : Word) : (s.writeResult (.hdr x y z) b).turns = s.turns := rfl
@[simp] theorem State.writeHdr_trace (b : Bool) (x y z : Word) : (s.writeResult (.hdr x y z) b).trace = s.trace := rfl
@[simp] theorem State.writeHdr_draws (b : Bool) (x y z : Word) : (s.writeResult (.hdr x y z) b).draws = s.draws := rfl

/-! ### writeSi -/

@[simp] theorem State.writeSi_lcmd (b : Bool) (x : Word) : (s.writeResult (.si x) b).lcmd = s.lcmd := rfl
@[simp] theorem State.writeSi_busy (b : Bool) (x : Word) : (s.writeResult (.si x) b).busy = s.busy := rfl
@[simp] theorem State.writeSi_done (b : Bool) (x : Word) : (s.writeResult (.si x) b).done = s.done := rfl
@[simp] theorem State.writeSi_err (b : Bool) (x : Word) : (s.writeResult (.si x) b).err = s.err := rfl
@[simp] theorem State.writeSi_errcode (b : Bool) (x : Word) : (s.writeResult (.si x) b).errcode = s.errcode := rfl
@[simp] theorem State.writeSi_extValid (b : Bool) (x : Word) : (s.writeResult (.si x) b).extValid = s.extValid := rfl
@[simp] theorem State.writeSi_lutValid (b : Bool) (x : Word) : (s.writeResult (.si x) b).lutValid = s.lutValid := rfl
@[simp] theorem State.writeSi_hdrValid (b : Bool) (x : Word) : (s.writeResult (.si x) b).hdrValid = s.hdrValid := rfl
@[simp] theorem State.writeSi_siValid (b : Bool) (x : Word) : (s.writeResult (.si x) b).siValid = b := rfl
@[simp] theorem State.writeSi_chValid (b : Bool) (x : Word) : (s.writeResult (.si x) b).chValid = s.chValid := rfl
@[simp] theorem State.writeSi_overrun (b : Bool) (x : Word) : (s.writeResult (.si x) b).overrun = s.overrun := rfl
@[simp] theorem State.writeSi_ilen (b : Bool) (x : Word) : (s.writeResult (.si x) b).ilen = s.ilen := rfl
@[simp] theorem State.writeSi_ibuf (b : Bool) (x : Word) : (s.writeResult (.si x) b).ibuf = s.ibuf := rfl
@[simp] theorem State.writeSi_extr (b : Bool) (x : Word) : (s.writeResult (.si x) b).extr = s.extr := rfl
@[simp] theorem State.writeSi_lutr (b : Bool) (x : Word) : (s.writeResult (.si x) b).lutr = s.lutr := rfl
@[simp] theorem State.writeSi_hdr0 (b : Bool) (x : Word) : (s.writeResult (.si x) b).hdr0 = s.hdr0 := rfl
@[simp] theorem State.writeSi_hdr1 (b : Bool) (x : Word) : (s.writeResult (.si x) b).hdr1 = s.hdr1 := rfl
@[simp] theorem State.writeSi_hdr2 (b : Bool) (x : Word) : (s.writeResult (.si x) b).hdr2 = s.hdr2 := rfl
@[simp] theorem State.writeSi_si0 (b : Bool) (x : Word) : (s.writeResult (.si x) b).si0 = x := rfl
@[simp] theorem State.writeSi_ch0 (b : Bool) (x : Word) : (s.writeResult (.si x) b).ch0 = s.ch0 := rfl
@[simp] theorem State.writeSi_ch1 (b : Bool) (x : Word) : (s.writeResult (.si x) b).ch1 = s.ch1 := rfl
@[simp] theorem State.writeSi_ch2 (b : Bool) (x : Word) : (s.writeResult (.si x) b).ch2 = s.ch2 := rfl
@[simp] theorem State.writeSi_ch3 (b : Bool) (x : Word) : (s.writeResult (.si x) b).ch3 = s.ch3 := rfl
@[simp] theorem State.writeSi_hostProg (b : Bool) (x : Word) : (s.writeResult (.si x) b).hostProg = s.hostProg := rfl
@[simp] theorem State.writeSi_turns (b : Bool) (x : Word) : (s.writeResult (.si x) b).turns = s.turns := rfl
@[simp] theorem State.writeSi_trace (b : Bool) (x : Word) : (s.writeResult (.si x) b).trace = s.trace := rfl
@[simp] theorem State.writeSi_draws (b : Bool) (x : Word) : (s.writeResult (.si x) b).draws = s.draws := rfl

/-! ### writeCh -/

@[simp] theorem State.writeCh_lcmd (b : Bool) (x y z u : Word) : (s.writeResult (.ch x y z u) b).lcmd = s.lcmd := rfl
@[simp] theorem State.writeCh_busy (b : Bool) (x y z u : Word) : (s.writeResult (.ch x y z u) b).busy = s.busy := rfl
@[simp] theorem State.writeCh_done (b : Bool) (x y z u : Word) : (s.writeResult (.ch x y z u) b).done = s.done := rfl
@[simp] theorem State.writeCh_err (b : Bool) (x y z u : Word) : (s.writeResult (.ch x y z u) b).err = s.err := rfl
@[simp] theorem State.writeCh_errcode (b : Bool) (x y z u : Word) : (s.writeResult (.ch x y z u) b).errcode = s.errcode := rfl
@[simp] theorem State.writeCh_extValid (b : Bool) (x y z u : Word) : (s.writeResult (.ch x y z u) b).extValid = s.extValid := rfl
@[simp] theorem State.writeCh_lutValid (b : Bool) (x y z u : Word) : (s.writeResult (.ch x y z u) b).lutValid = s.lutValid := rfl
@[simp] theorem State.writeCh_hdrValid (b : Bool) (x y z u : Word) : (s.writeResult (.ch x y z u) b).hdrValid = s.hdrValid := rfl
@[simp] theorem State.writeCh_siValid (b : Bool) (x y z u : Word) : (s.writeResult (.ch x y z u) b).siValid = s.siValid := rfl
@[simp] theorem State.writeCh_chValid (b : Bool) (x y z u : Word) : (s.writeResult (.ch x y z u) b).chValid = b := rfl
@[simp] theorem State.writeCh_overrun (b : Bool) (x y z u : Word) : (s.writeResult (.ch x y z u) b).overrun = s.overrun := rfl
@[simp] theorem State.writeCh_ilen (b : Bool) (x y z u : Word) : (s.writeResult (.ch x y z u) b).ilen = s.ilen := rfl
@[simp] theorem State.writeCh_ibuf (b : Bool) (x y z u : Word) : (s.writeResult (.ch x y z u) b).ibuf = s.ibuf := rfl
@[simp] theorem State.writeCh_extr (b : Bool) (x y z u : Word) : (s.writeResult (.ch x y z u) b).extr = s.extr := rfl
@[simp] theorem State.writeCh_lutr (b : Bool) (x y z u : Word) : (s.writeResult (.ch x y z u) b).lutr = s.lutr := rfl
@[simp] theorem State.writeCh_hdr0 (b : Bool) (x y z u : Word) : (s.writeResult (.ch x y z u) b).hdr0 = s.hdr0 := rfl
@[simp] theorem State.writeCh_hdr1 (b : Bool) (x y z u : Word) : (s.writeResult (.ch x y z u) b).hdr1 = s.hdr1 := rfl
@[simp] theorem State.writeCh_hdr2 (b : Bool) (x y z u : Word) : (s.writeResult (.ch x y z u) b).hdr2 = s.hdr2 := rfl
@[simp] theorem State.writeCh_si0 (b : Bool) (x y z u : Word) : (s.writeResult (.ch x y z u) b).si0 = s.si0 := rfl
@[simp] theorem State.writeCh_ch0 (b : Bool) (x y z u : Word) : (s.writeResult (.ch x y z u) b).ch0 = x := rfl
@[simp] theorem State.writeCh_ch1 (b : Bool) (x y z u : Word) : (s.writeResult (.ch x y z u) b).ch1 = y := rfl
@[simp] theorem State.writeCh_ch2 (b : Bool) (x y z u : Word) : (s.writeResult (.ch x y z u) b).ch2 = z := rfl
@[simp] theorem State.writeCh_ch3 (b : Bool) (x y z u : Word) : (s.writeResult (.ch x y z u) b).ch3 = u := rfl
@[simp] theorem State.writeCh_hostProg (b : Bool) (x y z u : Word) : (s.writeResult (.ch x y z u) b).hostProg = s.hostProg := rfl
@[simp] theorem State.writeCh_turns (b : Bool) (x y z u : Word) : (s.writeResult (.ch x y z u) b).turns = s.turns := rfl
@[simp] theorem State.writeCh_trace (b : Bool) (x y z u : Word) : (s.writeResult (.ch x y z u) b).trace = s.trace := rfl
@[simp] theorem State.writeCh_draws (b : Bool) (x y z u : Word) : (s.writeResult (.ch x y z u) b).draws = s.draws := rfl

/-! ### setTurns -/

@[simp] theorem State.setTurns_lcmd (ts : List Turn) : (s.setTurns ts).lcmd = s.lcmd := rfl
@[simp] theorem State.setTurns_busy (ts : List Turn) : (s.setTurns ts).busy = s.busy := rfl
@[simp] theorem State.setTurns_done (ts : List Turn) : (s.setTurns ts).done = s.done := rfl
@[simp] theorem State.setTurns_err (ts : List Turn) : (s.setTurns ts).err = s.err := rfl
@[simp] theorem State.setTurns_errcode (ts : List Turn) : (s.setTurns ts).errcode = s.errcode := rfl
@[simp] theorem State.setTurns_extValid (ts : List Turn) : (s.setTurns ts).extValid = s.extValid := rfl
@[simp] theorem State.setTurns_lutValid (ts : List Turn) : (s.setTurns ts).lutValid = s.lutValid := rfl
@[simp] theorem State.setTurns_hdrValid (ts : List Turn) : (s.setTurns ts).hdrValid = s.hdrValid := rfl
@[simp] theorem State.setTurns_siValid (ts : List Turn) : (s.setTurns ts).siValid = s.siValid := rfl
@[simp] theorem State.setTurns_chValid (ts : List Turn) : (s.setTurns ts).chValid = s.chValid := rfl
@[simp] theorem State.setTurns_overrun (ts : List Turn) : (s.setTurns ts).overrun = s.overrun := rfl
@[simp] theorem State.setTurns_ilen (ts : List Turn) : (s.setTurns ts).ilen = s.ilen := rfl
@[simp] theorem State.setTurns_ibuf (ts : List Turn) : (s.setTurns ts).ibuf = s.ibuf := rfl
@[simp] theorem State.setTurns_extr (ts : List Turn) : (s.setTurns ts).extr = s.extr := rfl
@[simp] theorem State.setTurns_lutr (ts : List Turn) : (s.setTurns ts).lutr = s.lutr := rfl
@[simp] theorem State.setTurns_hdr0 (ts : List Turn) : (s.setTurns ts).hdr0 = s.hdr0 := rfl
@[simp] theorem State.setTurns_hdr1 (ts : List Turn) : (s.setTurns ts).hdr1 = s.hdr1 := rfl
@[simp] theorem State.setTurns_hdr2 (ts : List Turn) : (s.setTurns ts).hdr2 = s.hdr2 := rfl
@[simp] theorem State.setTurns_si0 (ts : List Turn) : (s.setTurns ts).si0 = s.si0 := rfl
@[simp] theorem State.setTurns_ch0 (ts : List Turn) : (s.setTurns ts).ch0 = s.ch0 := rfl
@[simp] theorem State.setTurns_ch1 (ts : List Turn) : (s.setTurns ts).ch1 = s.ch1 := rfl
@[simp] theorem State.setTurns_ch2 (ts : List Turn) : (s.setTurns ts).ch2 = s.ch2 := rfl
@[simp] theorem State.setTurns_ch3 (ts : List Turn) : (s.setTurns ts).ch3 = s.ch3 := rfl
@[simp] theorem State.setTurns_hostProg (ts : List Turn) : (s.setTurns ts).hostProg = s.hostProg := rfl
@[simp] theorem State.setTurns_turns (ts : List Turn) : (s.setTurns ts).turns = ts := rfl
@[simp] theorem State.setTurns_trace (ts : List Turn) : (s.setTurns ts).trace = s.trace := rfl
@[simp] theorem State.setTurns_draws (ts : List Turn) : (s.setTurns ts).draws = s.draws := rfl

/-! ### setHostProg -/

@[simp] theorem State.setHostProg_lcmd (ops : List HostOp) : (s.setHostProg ops).lcmd = s.lcmd := rfl
@[simp] theorem State.setHostProg_busy (ops : List HostOp) : (s.setHostProg ops).busy = s.busy := rfl
@[simp] theorem State.setHostProg_done (ops : List HostOp) : (s.setHostProg ops).done = s.done := rfl
@[simp] theorem State.setHostProg_err (ops : List HostOp) : (s.setHostProg ops).err = s.err := rfl
@[simp] theorem State.setHostProg_errcode (ops : List HostOp) : (s.setHostProg ops).errcode = s.errcode := rfl
@[simp] theorem State.setHostProg_extValid (ops : List HostOp) : (s.setHostProg ops).extValid = s.extValid := rfl
@[simp] theorem State.setHostProg_lutValid (ops : List HostOp) : (s.setHostProg ops).lutValid = s.lutValid := rfl
@[simp] theorem State.setHostProg_hdrValid (ops : List HostOp) : (s.setHostProg ops).hdrValid = s.hdrValid := rfl
@[simp] theorem State.setHostProg_siValid (ops : List HostOp) : (s.setHostProg ops).siValid = s.siValid := rfl
@[simp] theorem State.setHostProg_chValid (ops : List HostOp) : (s.setHostProg ops).chValid = s.chValid := rfl
@[simp] theorem State.setHostProg_overrun (ops : List HostOp) : (s.setHostProg ops).overrun = s.overrun := rfl
@[simp] theorem State.setHostProg_ilen (ops : List HostOp) : (s.setHostProg ops).ilen = s.ilen := rfl
@[simp] theorem State.setHostProg_ibuf (ops : List HostOp) : (s.setHostProg ops).ibuf = s.ibuf := rfl
@[simp] theorem State.setHostProg_extr (ops : List HostOp) : (s.setHostProg ops).extr = s.extr := rfl
@[simp] theorem State.setHostProg_lutr (ops : List HostOp) : (s.setHostProg ops).lutr = s.lutr := rfl
@[simp] theorem State.setHostProg_hdr0 (ops : List HostOp) : (s.setHostProg ops).hdr0 = s.hdr0 := rfl
@[simp] theorem State.setHostProg_hdr1 (ops : List HostOp) : (s.setHostProg ops).hdr1 = s.hdr1 := rfl
@[simp] theorem State.setHostProg_hdr2 (ops : List HostOp) : (s.setHostProg ops).hdr2 = s.hdr2 := rfl
@[simp] theorem State.setHostProg_si0 (ops : List HostOp) : (s.setHostProg ops).si0 = s.si0 := rfl
@[simp] theorem State.setHostProg_ch0 (ops : List HostOp) : (s.setHostProg ops).ch0 = s.ch0 := rfl
@[simp] theorem State.setHostProg_ch1 (ops : List HostOp) : (s.setHostProg ops).ch1 = s.ch1 := rfl
@[simp] theorem State.setHostProg_ch2 (ops : List HostOp) : (s.setHostProg ops).ch2 = s.ch2 := rfl
@[simp] theorem State.setHostProg_ch3 (ops : List HostOp) : (s.setHostProg ops).ch3 = s.ch3 := rfl
@[simp] theorem State.setHostProg_hostProg (ops : List HostOp) : (s.setHostProg ops).hostProg = ops := rfl
@[simp] theorem State.setHostProg_turns (ops : List HostOp) : (s.setHostProg ops).turns = s.turns := rfl
@[simp] theorem State.setHostProg_trace (ops : List HostOp) : (s.setHostProg ops).trace = s.trace := rfl
@[simp] theorem State.setHostProg_draws (ops : List HostOp) : (s.setHostProg ops).draws = s.draws := rfl

/-! ### record -/

@[simp] theorem State.record_lcmd (r : BusResp) : (s.record r).lcmd = s.lcmd := rfl
@[simp] theorem State.record_busy (r : BusResp) : (s.record r).busy = s.busy := rfl
@[simp] theorem State.record_done (r : BusResp) : (s.record r).done = s.done := rfl
@[simp] theorem State.record_err (r : BusResp) : (s.record r).err = s.err := rfl
@[simp] theorem State.record_errcode (r : BusResp) : (s.record r).errcode = s.errcode := rfl
@[simp] theorem State.record_extValid (r : BusResp) : (s.record r).extValid = s.extValid := rfl
@[simp] theorem State.record_lutValid (r : BusResp) : (s.record r).lutValid = s.lutValid := rfl
@[simp] theorem State.record_hdrValid (r : BusResp) : (s.record r).hdrValid = s.hdrValid := rfl
@[simp] theorem State.record_siValid (r : BusResp) : (s.record r).siValid = s.siValid := rfl
@[simp] theorem State.record_chValid (r : BusResp) : (s.record r).chValid = s.chValid := rfl
@[simp] theorem State.record_overrun (r : BusResp) : (s.record r).overrun = s.overrun := rfl
@[simp] theorem State.record_ilen (r : BusResp) : (s.record r).ilen = s.ilen := rfl
@[simp] theorem State.record_ibuf (r : BusResp) : (s.record r).ibuf = s.ibuf := rfl
@[simp] theorem State.record_extr (r : BusResp) : (s.record r).extr = s.extr := rfl
@[simp] theorem State.record_lutr (r : BusResp) : (s.record r).lutr = s.lutr := rfl
@[simp] theorem State.record_hdr0 (r : BusResp) : (s.record r).hdr0 = s.hdr0 := rfl
@[simp] theorem State.record_hdr1 (r : BusResp) : (s.record r).hdr1 = s.hdr1 := rfl
@[simp] theorem State.record_hdr2 (r : BusResp) : (s.record r).hdr2 = s.hdr2 := rfl
@[simp] theorem State.record_si0 (r : BusResp) : (s.record r).si0 = s.si0 := rfl
@[simp] theorem State.record_ch0 (r : BusResp) : (s.record r).ch0 = s.ch0 := rfl
@[simp] theorem State.record_ch1 (r : BusResp) : (s.record r).ch1 = s.ch1 := rfl
@[simp] theorem State.record_ch2 (r : BusResp) : (s.record r).ch2 = s.ch2 := rfl
@[simp] theorem State.record_ch3 (r : BusResp) : (s.record r).ch3 = s.ch3 := rfl
@[simp] theorem State.record_hostProg (r : BusResp) : (s.record r).hostProg = s.hostProg := rfl
@[simp] theorem State.record_turns (r : BusResp) : (s.record r).turns = s.turns := rfl
@[simp] theorem State.record_trace (r : BusResp) : (s.record r).trace = r :: s.trace := rfl
@[simp] theorem State.record_draws (r : BusResp) : (s.record r).draws = s.draws := rfl

/-! ### resetEvent (10_state.md R51) -/

@[simp] theorem State.resetEvent_lcmd : s.resetEvent.lcmd = 0#32 := rfl
@[simp] theorem State.resetEvent_busy : s.resetEvent.busy = false := rfl
@[simp] theorem State.resetEvent_done : s.resetEvent.done = false := rfl
@[simp] theorem State.resetEvent_err : s.resetEvent.err = false := rfl
@[simp] theorem State.resetEvent_errcode : s.resetEvent.errcode = 0#4 := rfl
@[simp] theorem State.resetEvent_extValid : s.resetEvent.extValid = false := rfl
@[simp] theorem State.resetEvent_lutValid : s.resetEvent.lutValid = false := rfl
@[simp] theorem State.resetEvent_hdrValid : s.resetEvent.hdrValid = false := rfl
@[simp] theorem State.resetEvent_siValid : s.resetEvent.siValid = false := rfl
@[simp] theorem State.resetEvent_chValid : s.resetEvent.chValid = false := rfl
@[simp] theorem State.resetEvent_overrun : s.resetEvent.overrun = false := rfl
@[simp] theorem State.resetEvent_ilen : s.resetEvent.ilen = 0#6 := rfl
@[simp] theorem State.resetEvent_ibuf : s.resetEvent.ibuf = drawIbuf s.draws := rfl
@[simp] theorem State.resetEvent_extr : s.resetEvent.extr = 0#32 := rfl
@[simp] theorem State.resetEvent_lutr : s.resetEvent.lutr = 0#32 := rfl
@[simp] theorem State.resetEvent_hdr0 : s.resetEvent.hdr0 = 0#32 := rfl
@[simp] theorem State.resetEvent_hdr1 : s.resetEvent.hdr1 = 0#32 := rfl
@[simp] theorem State.resetEvent_hdr2 : s.resetEvent.hdr2 = 0#32 := rfl
@[simp] theorem State.resetEvent_si0 : s.resetEvent.si0 = 0#32 := rfl
@[simp] theorem State.resetEvent_ch0 : s.resetEvent.ch0 = 0#32 := rfl
@[simp] theorem State.resetEvent_ch1 : s.resetEvent.ch1 = 0#32 := rfl
@[simp] theorem State.resetEvent_ch2 : s.resetEvent.ch2 = 0#32 := rfl
@[simp] theorem State.resetEvent_ch3 : s.resetEvent.ch3 = 0#32 := rfl
@[simp] theorem State.resetEvent_hostProg : s.resetEvent.hostProg = s.hostProg := rfl
@[simp] theorem State.resetEvent_turns : s.resetEvent.turns = s.turns := rfl
@[simp] theorem State.resetEvent_trace : s.resetEvent.trace = s.trace := rfl
@[simp] theorem State.resetEvent_draws : s.resetEvent.draws = s.draws + 1 := rfl

/-! ### statusWord -/

/-- STATUS reads its ten fields and nothing else (10_state.md R28). -/
theorem State.statusWord_congr {s t : State} (h : t.busy = s.busy ∧ t.done = s.done ∧ t.err = s.err ∧ t.errcode = s.errcode ∧
    t.extValid = s.extValid ∧ t.lutValid = s.lutValid ∧ t.hdrValid = s.hdrValid ∧ t.siValid = s.siValid ∧ t.chValid = s.chValid ∧
    t.overrun = s.overrun) : t.statusWord = s.statusWord := by
  obtain ⟨h1, h2, h3, h4, h5, h6, h7, h8, h9, h10⟩ := h
  simp only [State.statusWord, h1, h2, h3, h4, h5, h6, h7, h8, h9, h10]

/-! ### The input a command reads -/

@[simp] theorem State.setTurns_inputLength (ts : List Turn) : (s.setTurns ts).inputLength = s.inputLength := rfl
@[simp] theorem State.setTurns_inputBytes (ts : List Turn) : (s.setTurns ts).inputBytes = s.inputBytes := rfl

end Sys2Proof.Machine
end

