-- ==== Sys2Proof/Laws/Ops.lean ====
section
/-! SUPPORT. One lemma for each shared operation of completion: everything it can do. -/

namespace Sys2Proof.Machine

/-! ## Writing a result group (10_state.md R30) -/

@[simp] theorem Group.cleared_group (g : Group) : g.cleared.group = g := by cases g <;> rfl

/-- A group write leaves the group's registers at the result and its VALID bit as given. -/
theorem State.writeResult_group (s : State) (r : Result) (b : Bool) :
    (s.writeResult r b).groupResult r.group = r ∧ (s.writeResult r b).groupValid r.group = b := by
  cases r <;> exact ⟨rfl, rfl⟩

/-- No other group's registers or VALID bit change. -/
theorem State.writeResult_other (s : State) (r : Result) (b : Bool) {g : Group} (hg : g ≠ r.group) :
    (s.writeResult r b).groupResult g = s.groupResult g ∧ (s.writeResult r b).groupValid g = s.groupValid g := by
  cases r <;> cases g <;> first | exact ⟨rfl, rfl⟩ | exact absurd rfl hg

/-- What a completion of either kind leaves unchanged: everything but STATUS's completion bits and the result groups. -/
structure State.SameBesideResults (s t : State) : Prop where
  lcmd : t.lcmd = s.lcmd
  overrun : t.overrun = s.overrun
  ilen : t.ilen = s.ilen
  ibuf : t.ibuf = s.ibuf
  hostProg : t.hostProg = s.hostProg
  turns : t.turns = s.turns
  trace : t.trace = s.trace
  draws : t.draws = s.draws

theorem State.writeResult_same (s : State) (r : Result) (b : Bool) : s.SameBesideResults (s.writeResult r b) := by
  cases r <;> exact ⟨rfl, rfl, rfl, rfl, rfl, rfl, rfl, rfl⟩

/-- Everything a successful completion does (10_state.md R45). -/
theorem State.completeOk_spec (s : State) (r : Result) :
    s.SameBesideResults (s.completeOk r) ∧ (s.completeOk r).busy = false ∧ (s.completeOk r).done = true ∧
      (s.completeOk r).err = false ∧ (s.completeOk r).errcode = 0#4 ∧
      (s.completeOk r).groupResult r.group = r ∧ (s.completeOk r).groupValid r.group = true ∧
      ∀ g, g ≠ r.group → (s.completeOk r).groupResult g = s.groupResult g ∧ (s.completeOk r).groupValid g = s.groupValid g := by
  cases r <;>
    exact ⟨⟨rfl, rfl, rfl, rfl, rfl, rfl, rfl, rfl⟩, rfl, rfl, rfl, rfl, rfl, rfl, fun g hg => by
      cases g <;> first | exact ⟨rfl, rfl⟩ | exact absurd rfl hg⟩

/-- Everything a failed completion of a group's command does (10_state.md R45, 60_exceptions.md R252). -/
theorem State.completeFail_spec (s : State) (g : Group) (e : Failure) :
    s.SameBesideResults (s.completeFail (some g) e) ∧ (s.completeFail (some g) e).busy = false ∧
      (s.completeFail (some g) e).done = true ∧ (s.completeFail (some g) e).err = true ∧
      (s.completeFail (some g) e).errcode = e.code ∧
      (s.completeFail (some g) e).groupResult g = g.cleared ∧ (s.completeFail (some g) e).groupValid g = false ∧
      ∀ g', g' ≠ g → (s.completeFail (some g) e).groupResult g' = s.groupResult g' ∧
        (s.completeFail (some g) e).groupValid g' = s.groupValid g' := by
  cases g <;>
    exact ⟨⟨rfl, rfl, rfl, rfl, rfl, rfl, rfl, rfl⟩, rfl, rfl, rfl, rfl, rfl, rfl, fun g' hg => by
      cases g' <;> first | exact ⟨rfl, rfl⟩ | exact absurd rfl hg⟩

/-! ## Commands -/

/-- A command's result belongs to its group (10_state.md R30). -/
theorem runInstr_group {p : Params} {n : Nat} {B : List Byte} {i : Instr} {r : Result} (h : runInstr p n B i = .ok r) :
    r.group = groupOf i := by
  have map_ok : ∀ {α : Type} {x : Except Failure α} {f : α → Result}, x.map f = .ok r → ∃ a, r = f a := by
    intro α x f hx
    cases x with
    | error e => cases hx
    | ok a => exact ⟨a, (Except.ok.inj hx).symm⟩
  cases i with
  | extract o w =>
    simp only [runInstr, runExtract] at h
    split at h
    · cases h
    · obtain rfl := Except.ok.inj h; rfl
  | parseHdr =>
    simp only [runInstr, runParseHdr] at h
    split at h
    · obtain ⟨a, rfl⟩ := map_ok h; rfl
    · cases h
  | parseSi mode =>
    simp only [runInstr, runParseSi] at h
    split at h
    · obtain rfl := Except.ok.inj h; rfl
    · cases h
  | parseCh =>
    simp only [runInstr, runParseCh] at h
    split at h
    · obtain ⟨a, rfl⟩ := map_ok h; rfl
    · cases h
  | lutBitrate index layer =>
    simp only [runInstr, runLutBitrate] at h
    split at h
    · cases h
    · obtain ⟨a, rfl⟩ := map_ok h; rfl
  | lutSrate index => obtain ⟨a, rfl⟩ := map_ok h; rfl
  | lutFsize kbps hz => obtain ⟨a, rfl⟩ := map_ok h; rfl

/-- Every meaning is the completion of its group with its outcome. -/
theorem exec_eq_finish (i : Instr) (s : State) :
    exec i s = finish (groupOf i) (runInstr mhrp s.inputLength s.inputBytes i) s := by
  cases i <;> rfl

/-- Every command completes, in one of two ways: this is all a meaning can do. -/
theorem exec_cases (i : Instr) (s : State) :
    (∃ r, runInstr mhrp s.inputLength s.inputBytes i = .ok r ∧ r.group = groupOf i ∧ exec i s = .next (s.completeOk r)) ∨
    (∃ e, runInstr mhrp s.inputLength s.inputBytes i = .error e ∧ exec i s = .next (s.completeFail (some (groupOf i)) e)) := by
  rw [exec_eq_finish]
  cases h : runInstr mhrp s.inputLength s.inputBytes i with
  | ok r => exact .inl ⟨r, rfl, runInstr_group h, rfl⟩
  | error e => exact .inr ⟨e, rfl, rfl⟩

end Sys2Proof.Machine
end

