-- ==== Sys2Proof/Laws/PerInstr.lean ====
section
/-! SUPPORT. Statements about every command as syntax, one lemma a constructor. -/

namespace Sys2Proof.Laws

/-! ## The decoder gives a well-formed command back from its word (30_encoding.md R82 to R90) -/

def DecodesBack.Statement (i : Instr) : Prop := i.wf = true → decode (encode i) = .ok i

theorem DecodesBack.extract (offset width : Nat) : DecodesBack.Statement (.extract offset width) := by
  intro h
  simp only [Instr.wf, Bool.and_eq_true, decide_eq_true_eq] at h
  have op : slice (encode (.extract offset width)) 3 0 = 1 := by simp [encode, pack, slice]; omega
  have rest : slice (encode (.extract offset width)) 31 17 = 0 := by simp [encode, pack, slice]; omega
  have o : slice (encode (.extract offset width)) 11 4 = offset := by simp [encode, pack, slice]; omega
  have w : slice (encode (.extract offset width)) 16 12 = width := by simp [encode, pack, slice]; omega
  simp [decode, unlessReserved, op, rest, o, w]

theorem DecodesBack.parseHdr : DecodesBack.Statement .parseHdr := fun _ => rfl

theorem DecodesBack.parseSi (mode : ChannelMode) : DecodesBack.Statement (.parseSi mode) := fun _ => by cases mode <;> rfl

theorem DecodesBack.parseCh : DecodesBack.Statement .parseCh := fun _ => rfl

theorem DecodesBack.lutBitrate (index layer : Nat) : DecodesBack.Statement (.lutBitrate index layer) := by
  intro h
  simp only [Instr.wf, Bool.and_eq_true, decide_eq_true_eq] at h
  obtain ⟨h1, h2⟩ := h
  interval_cases index <;> interval_cases layer <;> rfl

theorem DecodesBack.lutSrate (index : Nat) : DecodesBack.Statement (.lutSrate index) := by
  intro h
  simp only [Instr.wf, decide_eq_true_eq] at h
  interval_cases index <;> rfl

theorem DecodesBack.lutFsize (kbps hz : Nat) : DecodesBack.Statement (.lutFsize kbps hz) := by
  intro h
  simp only [Instr.wf, Bool.and_eq_true, decide_eq_true_eq] at h
  have op : slice (encode (.lutFsize kbps hz)) 3 0 = 7 := by simp [encode, pack, slice]; omega
  have rest : slice (encode (.lutFsize kbps hz)) 31 30 = 0 := by simp [encode, pack, slice]; omega
  have k : slice (encode (.lutFsize kbps hz)) 12 4 = kbps := by simp [encode, pack, slice]; omega
  have z : slice (encode (.lutFsize kbps hz)) 29 13 = hz := by simp [encode, pack, slice]; omega
  simp [decode, unlessReserved, op, rest, k, z]

/-! ## The low four bits of a command's word are its opcode (30_encoding.md R80, R81) -/

def OpcodeField.Statement (i : Instr) : Prop := i.wf = true → slice (encode i) 3 0 = i.opcode

theorem OpcodeField.extract (offset width : Nat) : OpcodeField.Statement (.extract offset width) := by
  intro _
  simp [encode, pack, slice, Instr.opcode]
  omega

theorem OpcodeField.parseHdr : OpcodeField.Statement .parseHdr := fun _ => rfl

theorem OpcodeField.parseSi (mode : ChannelMode) : OpcodeField.Statement (.parseSi mode) := fun _ => by cases mode <;> rfl

theorem OpcodeField.parseCh : OpcodeField.Statement .parseCh := fun _ => rfl

theorem OpcodeField.lutBitrate (index layer : Nat) : OpcodeField.Statement (.lutBitrate index layer) := by
  intro _
  simp [encode, pack, slice, Instr.opcode]
  omega

theorem OpcodeField.lutSrate (index : Nat) : OpcodeField.Statement (.lutSrate index) := by
  intro _
  simp [encode, pack, slice, Instr.opcode]

theorem OpcodeField.lutFsize (kbps hz : Nat) : OpcodeField.Statement (.lutFsize kbps hz) := by
  intro _
  simp [encode, pack, slice, Instr.opcode]
  omega

end Sys2Proof.Laws
end

