-- ==== Sys2Proof/Laws/Step.lean ====
section
/-! SUPPORT. What a bus write, a host turn, an engine turn and a step can do, said once each. -/

namespace Sys2Proof.Machine

/-! ## The bus -/

/-- A transaction that reaches a register is aligned, of 4 bytes, and at an offset of the map (20_memory.md R65, R66). -/
theorem regAt_some {off size : Nat} {r : Reg} (h : regAt off size = some r) : size = 4 ∧ (off, r) ∈ registerMap := by
  unfold regAt at h
  split at h
  · rename_i hc
    refine ⟨hc.2, ?_⟩
    obtain ⟨l₁, l₂, hl, -⟩ := List.lookup_eq_some_iff.mp h
    rw [hl]
    simp
  · cases h

/-- The byte offset of each register, as the column of 10_state.md R23 has it. -/
def Reg.offset : Reg → Nat
  | .cmd => 0x00
  | .status => 0x04
  | .ilen => 0x08
  | .extr => 0x0C
  | .lutr => 0x10
  | .hdr0 => 0x14
  | .hdr1 => 0x18
  | .hdr2 => 0x1C
  | .si0 => 0x20
  | .ch0 => 0x24
  | .ch1 => 0x28
  | .ch2 => 0x2C
  | .ch3 => 0x30
  | .ibuf k => 0x40 + 4 * k.val

/-- Every row of the register map has its register's offset (10_state.md R23). -/
theorem registerMap_offset : ∀ row ∈ registerMap, row.1 = row.2.offset := by decide

/-- The offsets whose writes a busy MHRP drops: CMD, ILEN and the IBUF words (10_state.md R42, R43). -/
def droppedWhileBusy (off : Nat) : Prop := off = 0x00 ∨ off = 0x08 ∨ ∃ k : Fin 8, off = 0x40 + 4 * k.val

/-- Everything a bus write can do (10_state.md R29, R41 to R44; 20_memory.md R65, R66). -/
inductive WriteEffect (s : State) (off size : Nat) (v : Word) : State → BusResp → Prop
  | refused : WriteEffect s off size v s .busError
  | accepted : off = 0x00 → size = 4 → s.busy = false → WriteEffect s off size v (s.accept v) .written
  | status : off = 0x04 → size = 4 → WriteEffect s off size v (s.writeStatus v) .written
  | ilen : off = 0x08 → size = 4 → s.busy = false → WriteEffect s off size v (s.setIlen v) .written
  | ibuf (k : Fin 8) : off = 0x40 + 4 * k.val → size = 4 → s.busy = false →
      WriteEffect s off size v (s.setIbuf (s.ibuf.writeWord k.val v)) .written
  | dropped : size = 4 → s.busy = true → droppedWhileBusy off → WriteEffect s off size v s.markOverrun .written

theorem memWrite_effect (s : State) (off size : Nat) (v : Word) :
    WriteEffect s off size v (memWrite s off size v).1 (memWrite s off size v).2 := by
  unfold memWrite
  cases h : regAt off size with
  | none => exact .refused
  | some r =>
    have ho : off = r.offset := registerMap_offset _ (regAt_some h).2
    have hz := (regAt_some h).1
    cases r with
    | cmd =>
      simp only [State.writeReg, State.whenIdle]
      split
      · rename_i hb; exact .dropped hz hb (.inl ho)
      · rename_i hb; exact .accepted ho hz (by simpa using hb)
    | status => exact .status ho hz
    | ilen =>
      simp only [State.writeReg, State.whenIdle]
      split
      · rename_i hb; exact .dropped hz hb (.inr (.inl ho))
      · rename_i hb; exact .ilen ho hz (by simpa using hb)
    | ibuf k =>
      simp only [State.writeReg, State.whenIdle]
      split
      · rename_i hb; exact .dropped hz hb (.inr (.inr ⟨k, ho⟩))
      · rename_i hb; exact .ibuf k ho hz (by simpa using hb)
    | _ => exact .refused

/-! ## The host's turn -/

/-- Everything a host turn can do: nothing, one read, or one write, each answered (10_state.md R22, 20_memory.md R60). -/
inductive HostEffect (s : State) : State → Prop
  | nothing : s.hostProg = [] → HostEffect s s
  | read (ops : List HostOp) (off size : Nat) :
      HostEffect s ((s.setHostProg ops).record (memRead (s.setHostProg ops) off size))
  | write (ops : List HostOp) (off size : Nat) (v : Word) (t : State) (r : BusResp) :
      s.hostProg = .txn (.write off size v) :: ops → WriteEffect (s.setHostProg ops) off size v t r → HostEffect s (t.record r)

theorem hostStep_effect (s : State) : HostEffect s (hostStep s) := by
  unfold hostStep
  split
  · rename_i h; exact .nothing h
  · rename_i t ops h
    cases t with
    | read off size => exact .read ops off size
    | write off size v => exact .write ops off size v _ _ h (memWrite_effect _ off size v)
  · rename_i ops h; exact .read _ 0x04 4
  · rename_i ops h; exact .read _ 0x14 4

/-- The result registers and the VALID bits are the same. -/
structure State.SameResults (s t : State) : Prop where
  extr : t.extr = s.extr
  lutr : t.lutr = s.lutr
  hdr0 : t.hdr0 = s.hdr0
  hdr1 : t.hdr1 = s.hdr1
  hdr2 : t.hdr2 = s.hdr2
  si0 : t.si0 = s.si0
  ch0 : t.ch0 = s.ch0
  ch1 : t.ch1 = s.ch1
  ch2 : t.ch2 = s.ch2
  ch3 : t.ch3 = s.ch3
  extValid : t.extValid = s.extValid
  lutValid : t.lutValid = s.lutValid
  hdrValid : t.hdrValid = s.hdrValid
  siValid : t.siValid = s.siValid
  chValid : t.chValid = s.chValid

theorem State.SameResults.group {s t : State} (h : s.SameResults t) (g : Group) :
    t.groupResult g = s.groupResult g ∧ t.groupValid g = s.groupValid g := by
  obtain ⟨h1, h2, h3, h4, h5, h6, h7, h8, h9, h10, h11, h12, h13, h14, h15⟩ := h
  cases g <;> simp [State.groupResult, State.groupValid, *]

/-- No bus write changes a result (20_memory.md R72). -/
theorem WriteEffect.sameResults {s t : State} {off size : Nat} {v : Word} {r : BusResp} (h : WriteEffect s off size v t r) :
    s.SameResults t := by
  cases h <;> constructor <;> rfl

/-- No host turn changes a result (20_memory.md R72). -/
theorem HostEffect.sameResults {s t : State} (h : HostEffect s t) : s.SameResults t := by
  cases h with
  | nothing => constructor <;> rfl
  | read => constructor <;> rfl
  | write ops off size v t r hp hw =>
    obtain ⟨h1, h2, h3, h4, h5, h6, h7, h8, h9, h10, h11, h12, h13, h14, h15⟩ := hw.sameResults
    constructor <;> assumption

/-- LCMD and the completion bits of STATUS are the same. -/
structure State.SameReport (s t : State) : Prop where
  lcmd : t.lcmd = s.lcmd
  busy : t.busy = s.busy
  done : t.done = s.done
  err : t.err = s.err
  errcode : t.errcode = s.errcode

/-- A bus write accepts a command, or leaves LCMD and the completion bits alone (10_state.md R41). -/
theorem WriteEffect.report {s t : State} {off size : Nat} {v : Word} {r : BusResp} (h : WriteEffect s off size v t r) :
    (off = 0x00 ∧ size = 4 ∧ s.busy = false ∧ t = s.accept v) ∨ s.SameReport t := by
  cases h with
  | accepted ho hz hb => exact .inl ⟨ho, hz, hb, rfl⟩
  | refused => exact .inr ⟨rfl, rfl, rfl, rfl, rfl⟩
  | status => exact .inr ⟨rfl, rfl, rfl, rfl, rfl⟩
  | ilen => exact .inr ⟨rfl, rfl, rfl, rfl, rfl⟩
  | ibuf => exact .inr ⟨rfl, rfl, rfl, rfl, rfl⟩
  | dropped => exact .inr ⟨rfl, rfl, rfl, rfl, rfl⟩

/-- A host turn accepts a command, or leaves LCMD and the completion bits alone (10_state.md R41). -/
theorem HostEffect.report {s t : State} (h : HostEffect s t) :
    (∃ ops, s.hostProg = .txn (.write 0x00 4 t.lcmd) :: ops ∧ s.busy = false ∧ t.busy = true ∧ t.done = false ∧ t.err = false ∧
      t.errcode = 0#4) ∨ s.SameReport t := by
  cases h with
  | nothing => exact .inr ⟨rfl, rfl, rfl, rfl, rfl⟩
  | read => exact .inr ⟨rfl, rfl, rfl, rfl, rfl⟩
  | write ops off size v t r hp hw =>
    rcases hw.report with ⟨rfl, rfl, hb, rfl⟩ | ⟨h1, h2, h3, h4, h5⟩
    · exact .inl ⟨ops, hp, hb, rfl, rfl, rfl, rfl⟩
    · exact .inr ⟨h1, h2, h3, h4, h5⟩

/-- A bus write stores to ILEN or IBUF while idle, or leaves both alone (10_state.md R43). -/
theorem WriteEffect.input {s t : State} {off size : Nat} {v : Word} {r : BusResp} (h : WriteEffect s off size v t r) :
    (off = 0x08 ∧ size = 4 ∧ s.busy = false ∧ t = s.setIlen v) ∨
    (∃ k : Fin 8, off = 0x40 + 4 * k.val ∧ size = 4 ∧ s.busy = false ∧ t = s.setIbuf (s.ibuf.writeWord k.val v)) ∨
    t.ilen = s.ilen ∧ t.ibuf = s.ibuf := by
  cases h with
  | ilen ho hz hb => exact .inl ⟨ho, hz, hb, rfl⟩
  | ibuf k ho hz hb => exact .inr (.inl ⟨k, ho, hz, hb, rfl⟩)
  | refused => exact .inr (.inr ⟨rfl, rfl⟩)
  | accepted => exact .inr (.inr ⟨rfl, rfl⟩)
  | status => exact .inr (.inr ⟨rfl, rfl⟩)
  | dropped => exact .inr (.inr ⟨rfl, rfl⟩)

/-! ## The engine's turn -/

/-- Everything an engine turn can do (10_state.md R22, R45; 30_encoding.md R90). -/
inductive EngineEffect (s : State) : State → Prop
  | idle : s.busy = false → EngineEffect s s
  | ok (i : Instr) (r : Result) : s.busy = true → decode s.lcmd = .ok i →
      runInstr mhrp s.inputLength s.inputBytes i = .ok r → r.group = groupOf i → EngineEffect s (s.completeOk r)
  | failed (i : Instr) (e : Failure) : s.busy = true → decode s.lcmd = .ok i →
      runInstr mhrp s.inputLength s.inputBytes i = .error e → EngineEffect s (s.completeFail (some (groupOf i)) e)
  | illegal (d : DecodeError) : s.busy = true → decode s.lcmd = .error d → EngineEffect s s.completeIllegal

theorem engineStep_effect (s : State) : ∃ t, engineStep s = .next t ∧ EngineEffect s t := by
  unfold engineStep
  split
  · rename_i hb
    cases hd : decode s.lcmd with
    | error d => exact ⟨_, rfl, .illegal d hb hd⟩
    | ok i =>
      rcases exec_cases i s with ⟨r, hr, hg, he⟩ | ⟨e, hr, he⟩
      · exact ⟨_, he, .ok i r hb hd hr hg⟩
      · exact ⟨_, he, .failed i e hb hd hr⟩
  · rename_i hb
    exact ⟨s, rfl, .idle (by simpa using hb)⟩

/-- An engine turn passes, or ends a command and leaves everything beside STATUS and the results alone (10_state.md R45). -/
theorem EngineEffect.report {s t : State} (h : EngineEffect s t) :
    (s.busy = false ∧ t = s) ∨ (s.busy = true ∧ t.busy = false ∧ t.done = true ∧ s.SameBesideResults t) := by
  cases h with
  | idle hb => exact .inl ⟨hb, rfl⟩
  | ok i r hb =>
    obtain ⟨h1, h2, h3, -⟩ := State.completeOk_spec s r
    exact .inr ⟨hb, h2, h3, h1⟩
  | failed i e hb =>
    obtain ⟨h1, h2, h3, -⟩ := State.completeFail_spec s (groupOf i) e
    exact .inr ⟨hb, h2, h3, h1⟩
  | illegal d hb => exact .inr ⟨hb, rfl, rfl, ⟨rfl, rfl, rfl, rfl, rfl, rfl, rfl, rfl⟩⟩

/-- An engine turn with BUSY = 1 completes, and STATUS reports a success without a code or a failure with one (10_state.md R45). -/
theorem EngineEffect.outcome {s t : State} (h : EngineEffect s t) (hb : s.busy = true) :
    t.busy = false ∧ t.done = true ∧ (t.err = false ∧ t.errcode = 0#4 ∨ t.err = true ∧ t.errcode ≠ 0#4) := by
  cases h with
  | idle hi => exact absurd (hb.symm.trans hi) (by decide)
  | ok i r =>
    obtain ⟨-, h2, h3, h4, h5, -⟩ := State.completeOk_spec s r
    exact ⟨h2, h3, .inl ⟨h4, h5⟩⟩
  | failed i e =>
    obtain ⟨-, h2, h3, h4, h5, -⟩ := State.completeFail_spec s (groupOf i) e
    exact ⟨h2, h3, .inr ⟨h4, by rw [h5]; cases e <;> decide⟩⟩
  | illegal =>
    exact ⟨rfl, rfl, .inr ⟨rfl, show Failure.illegalCommand.code ≠ 0#4 by decide⟩⟩

/-! ## The step -/

/-- Everything a step can do: a turn of one agent, named by the head of `turns`, or by default when there is none. -/
inductive StepEffect (s : State) : State → Prop
  | engine (ts : List Turn) (t : State) : (s.turns = .engine :: ts ∨ s.turns = [] ∧ ts = [] ∧ s.busy = true) →
      EngineEffect (s.setTurns ts) t → StepEffect s t
  | host (ts : List Turn) (t : State) : (s.turns = .host :: ts ∨ s.turns = [] ∧ ts = [] ∧ s.busy = false) →
      HostEffect (s.setTurns ts) t → StepEffect s t
  | reset (ts : List Turn) : s.turns = .reset :: ts → StepEffect s (s.setTurns ts).resetEvent

/-- With no turn left, dropping the turns changes nothing. -/
theorem State.setTurns_nil {s : State} (h : s.turns = []) : s.setTurns [] = s := by
  cases s; simp_all [State.setTurns]

/-! The step of each turn, and of a list without turns (10_state.md R22). -/

theorem step_engineTurn {s : State} {ts : List Turn} (h : s.turns = .engine :: ts) : step s = engineStep (s.setTurns ts) := by
  rw [step, h]

theorem step_hostTurn {s : State} {ts : List Turn} (h : s.turns = .host :: ts) : step s = .next (hostStep (s.setTurns ts)) := by
  rw [step, h]

theorem step_resetTurn {s : State} {ts : List Turn} (h : s.turns = .reset :: ts) : step s = .next (s.setTurns ts).resetEvent := by
  rw [step, h]

theorem step_noTurn_busy {s : State} (h : s.turns = []) (hb : s.busy = true) : step s = engineStep s := by
  rw [step, h]; simp [hb]

theorem step_noTurn_idle {s : State} (h : s.turns = []) (hb : s.busy = false) : step s = .next (hostStep s) := by
  rw [step, h]; simp [hb]

theorem step_effect (s : State) : ∃ t, step s = .next t ∧ StepEffect s t := by
  unfold step
  split
  · rename_i ts h
    obtain ⟨t, he, hf⟩ := engineStep_effect (s.setTurns ts)
    exact ⟨t, he, .engine ts t (.inl h) hf⟩
  · rename_i ts h
    exact ⟨_, rfl, .host ts _ (.inl h) (hostStep_effect _)⟩
  · rename_i ts h
    exact ⟨_, rfl, .reset ts h⟩
  · rename_i h
    split
    · rename_i hb
      obtain ⟨t, he, hf⟩ := engineStep_effect s
      exact ⟨t, he, .engine [] t (.inr ⟨h, rfl, hb⟩) (by rwa [State.setTurns_nil h])⟩
    · rename_i hb
      refine ⟨_, rfl, .host [] _ (.inr ⟨h, rfl, by simpa using hb⟩) ?_⟩
      rw [State.setTurns_nil h]
      exact hostStep_effect s

/-- The inversion of a step that answers a next state. -/
theorem step_next {s t : State} (h : step s = .next t) : StepEffect s t := by
  obtain ⟨t', h', hf⟩ := step_effect s
  rw [h] at h'
  cases h'
  exact hf

/-! ## Runs of the host's interface -/

/-- A run's first step, when it answers a next state. -/
theorem core_run_succ {k : Nat} {s t : State} (h : step s = .next t) : Sys2Proof.core.run (k + 1) s = Sys2Proof.core.run k t := by
  have e : Sys2Proof.core.step s = .next t := h
  show Host.Core.run Sys2Proof.core (k + 1) s = _
  simp only [Host.Core.run, e]

end Sys2Proof.Machine
end

