-- ==== Sys2Proof/Tests/Slice0.lean ====
section
/-! SUPPORT. The model's own tests: ill-formed operands, words written out from the encodings of spec/30_encoding.md, single steps with
expected values from spec/95_test_vectors.md, and for every statement with hypotheses a witness that meets them. -/

namespace Sys2Proof.Tests

open Sys2Proof.Machine Sys2Proof.Claims

/-! ## Helpers -/

/-- IBUF holding the given bytes from index 0 on. -/
def memOf (bytes : List Byte) : Machine.Memory :=
  ((List.range bytes.length).map fun i => (i, bytes.getD i 0)).filter fun c => c.2 != unlistedByte

/-- An idle machine with the given input. -/
def idle (bytes : List Byte) (len : Nat) : State := { State.resetWith (memOf bytes) with ilen := BitVec.ofNat 6 len }

/-- The same machine with a command word just accepted. -/
def inFlight (bytes : List Byte) (len : Nat) (w : Word) : State := (idle bytes len).accept w

/-- The next state of an outcome, the reset state where there is none. -/
def nextOf : Host.Outcome State Fault Refusal → State
  | .next t => t
  | .fault _ => State.reset
  | .refused _ => State.reset

/-- The completion of a word on an input. -/
def ran (bytes : List Byte) (len : Nat) (w : Word) : State := nextOf (step (inFlight bytes len w))

/-- The header bytes of 95_test_vectors.md E1. -/
def headerBytes : List Byte := [0xFF, 0xFB, 0x90, 0x00]

/-! ## Ill-formed operands are refused (30_encoding.md R95) -/

theorem test_wf_refuses_offset : (Instr.extract 256 1).wf = false := by decide
theorem test_wf_refuses_width : (Instr.extract 0 32).wf = false := by decide
theorem test_wf_refuses_bitrate_index : (Instr.lutBitrate 16 1).wf = false := by decide
theorem test_wf_refuses_layer : (Instr.lutBitrate 0 4).wf = false := by decide
theorem test_wf_refuses_srate_index : (Instr.lutSrate 4).wf = false := by decide
theorem test_wf_refuses_kbps : (Instr.lutFsize 512 44100).wf = false := by decide
theorem test_wf_refuses_hz : (Instr.lutFsize 128 131072).wf = false := by decide
theorem test_wf_accepts_bounds : (Instr.extract 255 31).wf = true ∧ (Instr.lutBitrate 15 3).wf = true ∧ (Instr.lutSrate 3).wf = true ∧
    (Instr.lutFsize 511 131071).wf = true ∧ Instr.parseHdr.wf = true ∧ (Instr.parseSi .stereo).wf = true ∧ Instr.parseCh.wf = true := by
  decide

/-! ## Decoding, bit 31 first (30_encoding.md R82 to R87) -/

/-- R82: `000000000000000 WWWWW OOOOOOOO 0001`. -/
theorem test_decode_extract : decode 0b000000000000000_00010_00001011_0001#32 = .ok (.extract 11 2) := by decide
/-- R83: the word `0x00000002`. -/
theorem test_decode_parse_hdr : decode 0b0000000000000000000000000000_0010#32 = .ok .parseHdr := by decide
/-- R84: `00000000000000000000000000 MM 0011`; mode 2 is DualMonaural. -/
theorem test_decode_parse_si : decode 0b00000000000000000000000000_10_0011#32 = .ok (.parseSi .dualMonaural) := by decide
/-- R83: the word `0x00000004`. -/
theorem test_decode_parse_ch : decode 0b0000000000000000000000000000_0100#32 = .ok .parseCh := by decide
/-- R85: `0000000000000000000000 LL IIII 0101`. -/
theorem test_decode_lut_bitrate : decode 0b0000000000000000000000_11_1110_0101#32 = .ok (.lutBitrate 14 3) := by decide
/-- R86: `00000000000000000000000000 SS 0110`. -/
theorem test_decode_lut_srate : decode 0b00000000000000000000000000_10_0110#32 = .ok (.lutSrate 2) := by decide
/-- R87: `00 HHHHHHHHHHHHHHHHH KKKKKKKKK 0111`. -/
theorem test_decode_lut_fsize : decode 0b00_01010110001000100_010000000_0111#32 = .ok (.lutFsize 128 44100) := rfl
/-- R90: OP 0x0 and 0x8 to 0xF. -/
theorem test_decode_reserved_opcodes : decode 0x0#32 = .error .reservedOpcode ∧ decode 0x8#32 = .error .reservedOpcode ∧
    decode 0x9#32 = .error .reservedOpcode ∧ decode 0xA#32 = .error .reservedOpcode ∧ decode 0xB#32 = .error .reservedOpcode ∧
    decode 0xC#32 = .error .reservedOpcode ∧ decode 0xD#32 = .error .reservedOpcode ∧ decode 0xE#32 = .error .reservedOpcode ∧
    decode 0xF#32 = .error .reservedOpcode := ⟨rfl, rfl, rfl, rfl, rfl, rfl, rfl, rfl, rfl⟩
/-- R90: the lowest reserved bit of each format (vectors X15, H26, S10, B3, T8, T13, T21). -/
theorem test_decode_reserved_bits : decode 0x00020001#32 = .error .reservedBit ∧
    decode 0x00000012#32 = .error .reservedBit ∧
    decode 0x00000043#32 = .error .reservedBit ∧
    decode 0x00000014#32 = .error .reservedBit ∧
    decode 0x00000595#32 = .error .reservedBit ∧
    decode 0x00000046#32 = .error .reservedBit ∧
    decode 0x55888807#32 = .error .reservedBit :=
  ⟨rfl, rfl, rfl, rfl, rfl, rfl, rfl⟩

/-! ## Single completions (95_test_vectors.md section 2) -/

/-- X7: three bytes, width 16. -/
theorem test_extract_three_bytes : ((ran headerBytes 4 0x00010071#32).extr, (ran headerBytes 4 0x00010071#32).statusWord) =
    (0x0000FDC8#32, 0x102#32) := by decide
/-- X13: the field ends past the input. -/
theorem test_extract_past_end : ((ran headerBytes 4 0x00010111#32).extr, (ran headerBytes 4 0x00010111#32).statusWord) =
    (0#32, 0x086#32) := by decide
/-- H20: every field of byte 3 set. -/
theorem test_parse_hdr_fields : (ran [0xFF, 0xFB, 0xE8, 0xFF] 4 2#32).groupResult .hdr =
    .hdr 0x00003FCC#32 0x01407D00#32 1440#32 := by decide
/-- H11: step 6 is the first to fail. -/
theorem test_parse_hdr_order : ((ran [0xFF, 0xFB, 0x0C, 0x00] 4 2#32).groupResult .hdr,
    (ran [0xFF, 0xFB, 0x0C, 0x00] 4 2#32).statusWord) = (.hdr 0#32 0#32 0#32, 0x056#32) := by decide
/-- S4, under DOC. -/
theorem test_parse_si_stereo : (ran [0x12, 0x34, 0x56] 32 0x13#32).si0 = 0x011A0024#32 := by decide
/-- S4, under ISO. -/
theorem test_parse_si_iso : ((inFlight [0x12, 0x34, 0x56] 32 0x13#32).complete { mhrp with siLayout := .iso }).si0 = 0x01450024#32 := by
  decide
/-- C2: Mixed. -/
theorem test_parse_ch_mixed : (ran [0x12, 0x35, 0x5C, 0xE2, 0xE9, 0x62, 0x53, 0x40] 8 4#32).groupResult .ch =
    .ch 0x138AB123#32 0x000000A5#32 0#32 0x000D1896#32 := by decide
/-- C1: Normal. -/
theorem test_parse_ch_normal : (ran [0x12, 0x35, 0x5C, 0xE2, 0x87, 0x1F, 0xCD, 0xA0] 8 4#32).groupResult .ch =
    .ch 0x138AB123#32 0x00000055#32 0x002CFE23#32 0#32 := by decide
/-- T2, T7. -/
theorem test_lut_bitrate : (ran [] 0 0x3E5#32).lutr = 448#32 ∧ (ran [] 0 0xF5#32).errcode = 3#4 := by decide
/-- T9, T12. -/
theorem test_lut_srate : (ran [] 0 0x06#32).lutr = 44100#32 ∧ (ran [] 0 0x36#32).errcode = 5#4 := by decide
/-- T14, T20. -/
theorem test_lut_fsize : (ran [] 0 0x15888807#32).lutr = 417#32 ∧ (ran [] 0 0x0AC44807#32).errcode = 4#4 := by decide
/-- B1. -/
theorem test_illegal_word : (ran headerBytes 4 0#32).statusWord = 0x096#32 := by decide

/-! ## Bus, reset, assembler, and the host's names -/

/-- B10. -/
theorem test_write_ilen : memRead (memWrite State.reset 0x08 4 0xFFFFFFFF#32).1 0x08 4 = .data 0x3F#32 := by decide
/-- B6, B7. -/
theorem test_bus_errors : memRead State.reset 0x34 4 = .busError ∧ memRead State.reset 0x60 4 = .busError ∧
    memRead State.reset 0x06 4 = .busError ∧ memRead State.reset 0x04 1 = .busError := by decide
/-- The word of section 3.1's LOAD. -/
theorem test_load_word : load [0xFF, 0xFB, 0x92, 0x00] = [HostOp.wr 0x40 0xFFFB9200#32, HostOp.wr 0x08 4#32] := by decide
/-- P5, run B: a command written while busy. -/
theorem test_overrun : (memWrite (inFlight headerBytes 4 2#32) 0x00 4 4#32).1.statusWord = 0x00010001#32 := by decide
/-- B11; 10_state.md R51. -/
theorem test_reset_status : State.reset.statusWord = 0#32 ∧ State.reset.lcmd = 0#32 ∧ State.reset.ibuf.wf = true := by decide
/-- 30_encoding.md R95. -/
theorem test_assemble_line : assembleLine "EXTRACT 11, 0x2 ; version".toList = some 0x000020B1#32 ∧
    assembleLine "PARSE_SI MONO".toList = some 0x33#32 ∧ assembleLine "EXTRACT 256, 2".toList = none := by decide
/-- The two host names, on the word of X1. -/
theorem test_host_names : decodeTableWord 32 0x000020B1 = some (.extract 11 2) ∧
    (nextOf (step (State.reset.withFetchWord 32 0x000020B1))).errcode = 8#4 := by decide

/-! ## Witnesses: hypotheses that can be met -/

/-- DecodeOfEncodeIsIdentity: `test_wf_accepts_bounds`. EncodeOfDecodeIsIdentity and OperandsAreWordFields: every operand at its largest
value. -/
theorem witness_decode_ok : decode 0x0001FFF1#32 = .ok (.extract 255 31) ∧ decode 0x00000033#32 = .ok (.parseSi .singleChannel) ∧
    decode 0x000003F5#32 = .ok (.lutBitrate 15 3) ∧ decode 0x00000036#32 = .ok (.lutSrate 3) ∧
    decode 0x3FFFFFF7#32 = .ok (.lutFsize 511 131071) := by decide
/-- DecoderFollowsOpcodeTable: a row and a word that matches it, and a word that matches none. -/
theorem witness_table_row : (∃ r ∈ opcodeRows, 0x0001FFF1#32 &&& r.mask = r.bits) ∧
    ∀ r ∈ opcodeRows, 0x00020001#32 &&& r.mask ≠ r.bits := by decide
/-- IllegalWords: clause 2 on an idle machine, clause 3 on a busy one. -/
theorem witness_illegal : decode 0x00020001#32 = .error .reservedBit ∧ State.reset.busy = false ∧
    decode (inFlight [] 0 0#32).lcmd = .error .reservedOpcode ∧ (inFlight [] 0 0#32).busy = true := by decide
/-- IllegalWords, clause 4: widths 0 and 17. -/
theorem witness_illegal_width : decode (inFlight [] 4 0x1#32).lcmd = .ok (.extract 0 0) ∧
    decode (inFlight [] 4 0x00011001#32).lcmd = .ok (.extract 0 17) ∧ (inFlight [] 4 0x00011001#32).busy = true := by decide
/-- IllegalWords, clause 5; SideInfoLength, clause 1: mono with 32 bytes, stereo with 17. -/
theorem witness_illegal_mode : (inFlight [] 32 0x33#32).ilen.toNat ≠ 17 ∧ decode (inFlight [] 32 0x33#32).lcmd = .ok (.parseSi .singleChannel) ∧
    (inFlight [] 17 0x03#32).ilen.toNat ≠ 32 ∧ decode (inFlight [] 17 0x03#32).lcmd = .ok (.parseSi .stereo) := by decide
/-- CommandAccepted, ReadOnlyAndStoringWrites, IbufLaneOrder, IlenRegister: an idle machine with a canonical IBUF. -/
theorem witness_idle : (idle headerBytes 4).busy = false ∧ (idle headerBytes 4).ibuf.wf = true := by decide
/-- CommandWhileBusyDropped, InputWriteWhileBusyDropped: a busy machine whose next step is the engine's. -/
theorem witness_busy : (inFlight headerBytes 4 2#32).busy = true ∧ ¬ ResetMoves (inFlight headerBytes 4 2#32) ∧
    step (inFlight headerBytes 4 2#32) = .next (ran headerBytes 4 2#32) := by
  refine ⟨by decide, ?_, rfl⟩
  unfold ResetMoves
  decide
/-- BusErrorsChangeNothing: misaligned, of one byte, and the ends of the unmapped ranges. OffsetsOutsideWindow: just past the window. -/
theorem witness_bus_errors : (0x06 % 4 ≠ 0 ∨ 4 ≠ 4) ∧ (0x04 % 4 ≠ 0 ∨ 1 ≠ 4) ∧
    (∀ off ∈ [0x34, 0x3C, 0x60, 0x7C], off ∈ [0x34, 0x38, 0x3C, 0x60, 0x64, 0x68, 0x6C, 0x70, 0x74, 0x78, 0x7C]) ∧ 0x80 ≤ 0x80 := by decide
/-- IlenRegister, clauses 3 and 4: a length of 33. -/
theorem witness_long_input : contractBroken (idle headerBytes 33) .parseHdr ∧ 32 < (idle headerBytes 33).ilen.toNat ∧ (∀ i l, Instr.parseHdr ≠ .lutBitrate i l) ∧
    (∀ i, Instr.parseHdr ≠ .lutSrate i) ∧ (∀ k z, Instr.parseHdr ≠ .lutFsize k z) := by
  refine ⟨by unfold contractBroken; decide, by decide, ?_, ?_, ?_⟩ <;> intros <;> exact Instr.noConfusion
/-- EngineCompletesAsRunSays, ResultGroups: a success, a failure, and an illegal word. -/
theorem witness_runs : (inFlight headerBytes 4 2#32).busy = true ∧ runCommand mhrp (inFlight headerBytes 4 2#32).lcmd 4 (inFlight headerBytes 4 2#32).inputBytes =
      .ok (.hdr 0xC#32 0x0080AC44#32 417#32) ∧
    runInstr mhrp 3 (idle headerBytes 3).inputBytes .parseHdr = .error .contractViolation ∧
    runCommand mhrp 0#32 4 (inFlight headerBytes 4 0#32).inputBytes = .error .illegalCommand := by decide
/-- CommandFrame, FailureCodes: every command answers, here with the group HDR untouched. -/
theorem witness_exec_next : exec (.lutSrate 3) (idle headerBytes 4) = .next (nextOf (exec (.lutSrate 3) (idle headerBytes 4))) ∧
    groupOf (.lutSrate 3) ≠ .hdr ∧ groupOf (.lutSrate 3) ≠ .ext ∧ groupOf (.lutSrate 3) ≠ .si ∧ groupOf (.lutSrate 3) ≠ .ch ∧
    groupOf .parseHdr ≠ .lut := by
  refine ⟨rfl, ?_⟩
  decide
/-- OutcomeDependsOnInputAlone: two machines that differ beyond the input. -/
theorem witness_same_input : (inFlight (headerBytes ++ [1]) 4 2#32).ibuf ≠ (inFlight headerBytes 4 2#32).ibuf ∧
    (inFlight (headerBytes ++ [1]) 4 2#32).ilen = (inFlight headerBytes 4 2#32).ilen ∧
    (inFlight (headerBytes ++ [1]) 4 2#32).lcmd = (inFlight headerBytes 4 2#32).lcmd ∧
    (inFlight (headerBytes ++ [1]) 4 2#32).busy = true ∧ (inFlight headerBytes 4 2#32).busy = true ∧
    (∀ a, a < (inFlight (headerBytes ++ [1]) 4 2#32).ilen.toNat →
      (inFlight (headerBytes ++ [1]) 4 2#32).ibuf.read a = (inFlight headerBytes 4 2#32).ibuf.read a) ∧
    engineStep (inFlight (headerBytes ++ [1]) 4 2#32) = .next (ran (headerBytes ++ [1]) 4 2#32) ∧
    engineStep (inFlight headerBytes 4 2#32) = .next (ran headerBytes 4 2#32) := by
  refine ⟨by decide, by decide, by decide, by decide, by decide, by decide, rfl, rfl⟩
/-- OutcomeDependsOnInputAlone, a LUT command: two machines with different inputs. -/
theorem witness_same_word : (inFlight headerBytes 4 6#32).lcmd = (inFlight [] 0 6#32).lcmd ∧
    decode (inFlight headerBytes 4 6#32).lcmd = .ok (.lutSrate 0) ∧ groupOf (.lutSrate 0) = .lut ∧
    engineStep (inFlight headerBytes 4 6#32) = .next (ran headerBytes 4 6#32) ∧
    engineStep (inFlight [] 0 6#32) = .next (ran [] 0 6#32) := by
  refine ⟨by decide, by decide, by decide, rfl, rfl⟩
/-- ExtractorIsBitSum, ExtractReadsField: the last 16 bits of 32 bytes. -/
theorem witness_extract : (idle [] 32).ilen.toNat ≤ 32 ∧ 1 ≤ 16 ∧ 16 ≤ 16 ∧ 240 + 16 ≤ 8 * (idle [] 32).ilen.toNat := by decide
/-- ExtractViolations: each of the four ways alone. -/
theorem witness_extract_violations : 32 < (idle [] 33).ilen.toNat ∧ 8 * (idle [] 4).ilen.toNat < 17 + 16 ∧ 16 < 17 := by decide
/-- BitrateLookup: a layer in and a layer out of FREE_REJECT_LAYERS, and an entry. -/
theorem witness_bitrate : .l3 ∈ ({ mhrp with freeReject := [.l3] } : Params).freeReject ∧
    .l1 ∉ ({ mhrp with freeReject := [.l3] } : Params).freeReject ∧ bitrateAt mhrp .l1 14 = some 448 := by decide
/-- LutBitrateReadsTable: index 0, 1 and 14. -/
theorem witness_lut_bitrate : kbpsOf 3 0 = some 0 ∧ kbpsOf 1 1 = some 32 ∧ kbpsOf 2 14 = some 384 ∧ 3 ∈ [1, 2, 3] ∧ 14 < 16 := by decide
/-- SamplingRateLookup, LutFsizeReadsTable. -/
theorem witness_lut_other : hzOf 2 = some 32000 ∧ frameSizeOf 320 48000 = some 960 ∧ frameSizeOf 0 44100 = none ∧
    frameSizeOf 128 22050 = none := by decide
/-- HeaderDecoded: H20. -/
theorem witness_header : (idle [0xFF, 0xFB, 0xE8, 0xFF] 4).ilen = 4#6 ∧ field (idle [0xFF, 0xFB, 0xE8, 0xFF] 4) 0 11 = 0x7FF ∧
    field (idle [0xFF, 0xFB, 0xE8, 0xFF] 4) 11 2 ≠ 1 ∧ field (idle [0xFF, 0xFB, 0xE8, 0xFF] 4) 13 2 ≠ 0 ∧
    kbpsOf (field (idle [0xFF, 0xFB, 0xE8, 0xFF] 4) 13 2) (field (idle [0xFF, 0xFB, 0xE8, 0xFF] 4) 16 4) = some 320 ∧
    hzOf (field (idle [0xFF, 0xFB, 0xE8, 0xFF] 4) 20 2) = some 32000 ∧ frameSizeOf 320 32000 = some 1440 := by decide
/-- HeaderFailures: one input for each code. -/
theorem witness_header_failures : headerCode (idle headerBytes 5) = 8#4 ∧ headerCode (idle [0xFE, 0xFB, 0x90, 0x00] 4) = 1#4 ∧
    headerCode (idle [0xFF, 0xEB, 0x90, 0x00] 4) = 2#4 ∧ headerCode (idle [0xFF, 0xF9, 0x90, 0x00] 4) = 3#4 ∧
    headerCode (idle [0xFF, 0xFB, 0xF0, 0x00] 4) = 4#4 ∧ headerCode (idle [0xFF, 0xFB, 0x9C, 0x00] 4) = 5#4 ∧
    headerCode (idle [0xFF, 0xFB, 0x00, 0x00] 4) = 4#4 := by decide
/-- PrivateBitIgnored: H20 and its variant. -/
theorem witness_private_bit : (idle [0xFF, 0xFB, 0xE8, 0xFF] 4).ilen = (idle [0xFF, 0xFB, 0xE9, 0xFF] 4).ilen ∧
    (∀ k, k < 32 → k ≠ 23 → bitOf (idle [0xFF, 0xFB, 0xE8, 0xFF] 4).ibuf.read k = bitOf (idle [0xFF, 0xFB, 0xE9, 0xFF] 4).ibuf.read k) ∧
    exec .parseHdr (idle [0xFF, 0xFB, 0xE8, 0xFF] 4) = .next (nextOf (exec .parseHdr (idle [0xFF, 0xFB, 0xE8, 0xFF] 4))) ∧
    exec .parseHdr (idle [0xFF, 0xFB, 0xE9, 0xFF] 4) = .next (nextOf (exec .parseHdr (idle [0xFF, 0xFB, 0xE9, 0xFF] 4))) := by
  refine ⟨by decide, by decide, rfl, rfl⟩
/-- SideInfoDecoded, SideInfoLength clause 2, SideInfoIsoLayout: both lengths. -/
theorem witness_side_info : (inFlight [] 17 0x33#32).ilen.toNat = 17 ∧ decode (inFlight [] 17 0x33#32).lcmd = .ok (.parseSi .singleChannel) ∧
    (inFlight [] 32 0x13#32).ilen.toNat = 32 ∧ decode (inFlight [] 32 0x13#32).lcmd = .ok (.parseSi .jointStereo) ∧
    ({ mhrp with siLayout := .iso } : Params).siLayout = .iso := by decide
/-- ChannelNormal: C8. ChannelWindowSwitched: C9. ChannelFailures: C10 and C11. -/
theorem witness_channel : (idle [0xFF, 0xFF, 0xFF, 0xFF, 0xBF, 0xFF, 0xFF, 0xFF] 8).ilen = 8#6 ∧
    field (idle [0xFF, 0xFF, 0xFF, 0xFF, 0xBF, 0xFF, 0xFF, 0xFF] 8) 33 1 = 0 ∧
    field (idle [0xFF, 0xFF, 0xFF, 0xFF, 0xFF, 0xFF, 0xFF, 0xFF] 8) 33 1 = 1 ∧
    field (idle [0xFF, 0xFF, 0xFF, 0xFF, 0xFF, 0xFF, 0xFF, 0xFF] 8) 34 2 ≠ 0 ∧
    field (idle [0x00, 0x00, 0x00, 0x00, 0x40] 8) 33 1 = 1 ∧ field (idle [0x00, 0x00, 0x00, 0x00, 0x40] 8) 34 2 = 0 ∧
    (idle [] 4).ilen ≠ 8#6 := by decide
/-- ChannelIgnoredBits: C4 with and without its mixed bit, and with bit 63. -/
theorem witness_channel_ignored :
    (idle [0x12, 0x35, 0x5C, 0xE2, 0xD8] 8).ilen = (idle [0x12, 0x35, 0x5C, 0xE2, 0xD0, 0x00, 0x00, 0x01] 8).ilen ∧
    (∀ k, k < 59 → k = 36 ∧ field (idle [0x12, 0x35, 0x5C, 0xE2, 0xD8] 8) 33 1 = 1 ∧ field (idle [0x12, 0x35, 0x5C, 0xE2, 0xD8] 8) 34 2 ≠ 2 ∨
      bitOf (idle [0x12, 0x35, 0x5C, 0xE2, 0xD8] 8).ibuf.read k =
        bitOf (idle [0x12, 0x35, 0x5C, 0xE2, 0xD0, 0x00, 0x00, 0x01] 8).ibuf.read k) ∧
    exec .parseCh (idle [0x12, 0x35, 0x5C, 0xE2, 0xD8] 8) = .next (nextOf (exec .parseCh (idle [0x12, 0x35, 0x5C, 0xE2, 0xD8] 8))) ∧
    exec .parseCh (idle [0x12, 0x35, 0x5C, 0xE2, 0xD0, 0x00, 0x00, 0x01] 8) =
      .next (nextOf (exec .parseCh (idle [0x12, 0x35, 0x5C, 0xE2, 0xD0, 0x00, 0x00, 0x01] 8))) := by
  refine ⟨by decide, by decide, rfl, rfl⟩
/-- ResetEvent, ResetKeepsHostData. -/
theorem witness_reset_turn : ((inFlight headerBytes 4 2#32).setTurns [.reset, .engine]).turns = .reset :: [.engine] := by decide
/-- StepRunsDecodedCommand, both clauses. -/
theorem witness_engine_turn : (inFlight headerBytes 4 2#32).busy = true ∧ decode (inFlight headerBytes 4 2#32).lcmd = .ok .parseHdr ∧
    Instr.parseHdr.wf = true ∧ (inFlight headerBytes 4 2#32).turns = [] ∧
    ((inFlight headerBytes 4 2#32).setTurns [.engine]).turns = .engine :: [] := by decide
/-- HostTurnPerformsOneTransaction: a read, a dropped write, WAIT, PARSE_SI.FROM_HDR and nothing left, at a turn and by default. -/
theorem witness_host_turn :
    (∀ ops ∈ [[HostOp.rd 0x04], [HostOp.wr 0x00 4#32], [.wait], [.siFromHdr], []],
      HostMoves (((inFlight headerBytes 4 2#32).setTurns [.host]).setHostProg ops) ∧
      (((inFlight headerBytes 4 2#32).setTurns [.host]).setHostProg ops).hostProg = ops ∧
      HostMoves ((idle headerBytes 4).setHostProg ops) ∧ ((idle headerBytes 4).setHostProg ops).hostProg = ops) ∧
    memWrite (((inFlight headerBytes 4 2#32).setTurns []).setHostProg []) 0x00 4 4#32 =
      ((((inFlight headerBytes 4 2#32).setTurns []).setHostProg []).markOverrun, .written) := by
  simp only [HostMoves]
  decide
/-- HostNotationExpands: the second of two words, with a missing byte. -/
theorem witness_load : 4 * 1 < ([1, 2, 3, 4, 5, 6, 7] : List Byte).length ∧
    (load [1, 2, 3, 4, 5, 6, 7])[1]? = some (.txn (.write 0x44 4 0x05060700#32)) := by decide
/-- IdleEngineTurnPasses. -/
theorem witness_idle_engine : ((idle headerBytes 4).setTurns [.engine]).turns = .engine :: [] ∧
    ((idle headerBytes 4).setTurns [.engine]).busy = false := by decide
/-- GuardedStepFaults, clauses 1 to 3: the engine moves, on a broken and a kept precondition, on an illegal word, and while idle. -/
theorem witness_guarded_engine : EngineMoves (inFlight headerBytes 3 2#32) ∧ contractBroken (inFlight headerBytes 3 2#32) .parseHdr ∧
    ¬ contractBroken (inFlight headerBytes 4 2#32) .parseHdr ∧ EngineMoves (inFlight headerBytes 4 0#32) ∧
    decode (inFlight headerBytes 4 0#32).lcmd = .error .reservedOpcode ∧
    EngineMoves (State.reset.setTurns [.engine]) ∧ (State.reset.setTurns [.engine]).busy = false := by
  simp only [EngineMoves, contractBroken]
  decide
/-- GuardedStepFaults, clauses 4 to 7: writes and reads that are answered by a bus error and that are not, and the other turns. -/
theorem witness_guarded_host : HostMoves (State.reset.setHostProg [.wr 0x14 1#32]) ∧ (memWrite State.reset 0x14 4 1#32).2 = .busError ∧
    HostMoves (State.reset.setHostProg [.wr 0x08 1#32]) ∧ (memWrite State.reset 0x08 4 1#32).2 = .written ∧
    HostMoves (State.reset.setHostProg [.rd 0x34]) ∧ memRead State.reset 0x34 4 = .busError ∧
    HostMoves (State.reset.setHostProg [.rd 0x04]) ∧ memRead State.reset 0x04 4 = .data 0#32 ∧
    HostMoves (State.reset.setHostProg [.wait]) ∧ HostMoves (State.reset.setHostProg [.siFromHdr]) ∧ HostMoves State.reset ∧
    ResetMoves (State.reset.setTurns [.reset]) := by
  simp only [HostMoves, ResetMoves]
  decide
/-- InvariantAtReset: an IBUF in canonical form. -/
theorem witness_canonical : (memOf headerBytes).wf = true := by decide
/-- InvariantKeptByEveryStep: the reset state meets the invariant, and its step answers a next state. -/
theorem witness_invariant : State.reset.Inv ∧ step State.reset = .next State.reset := by
  refine ⟨⟨by decide, by decide, by decide, by decide, ?_, by decide, ?_, ?_⟩, rfl⟩
  · intro h; cases h
  · intro g _; cases g <;> rfl
  · intro g h; cases g <;> cases h
/-- InFlightCommandCompletesUntouched: two host turns that try to change the input. -/
theorem witness_in_flight :
    (((inFlight headerBytes 4 2#32).setTurns [.host, .host, .engine]).setHostProg [.wr 0x40 0#32, .wr 0x00 4#32]).busy = true ∧
    (((inFlight headerBytes 4 2#32).setTurns [.host, .host, .engine]).setHostProg [.wr 0x40 0#32, .wr 0x00 4#32]).turns =
      List.replicate 2 .host ++ .engine :: [] := by decide
/-- OverrunIsSticky: a STATUS write that clears the bit, and a dropped write that sets it. -/
theorem witness_overrun :
    step ((State.reset.markOverrun).setHostProg clearOverrun) = .next (nextOf (step ((State.reset.markOverrun).setHostProg clearOverrun))) ∧
    (nextOf (step ((State.reset.markOverrun).setHostProg clearOverrun))).overrun = false ∧ State.reset.markOverrun.overrun = true ∧
    step (((inFlight headerBytes 4 2#32).setTurns [.host]).setHostProg [.wr 0x08 5#32]) =
      .next (nextOf (step (((inFlight headerBytes 4 2#32).setTurns [.host]).setHostProg [.wr 0x08 5#32]))) ∧
    (inFlight headerBytes 4 2#32).overrun = false ∧
    (nextOf (step (((inFlight headerBytes 4 2#32).setTurns [.host]).setHostProg [.wr 0x08 5#32]))).overrun = true := by
  refine ⟨rfl, by decide, by decide, rfl, by decide, by decide⟩
/-- CommandsStartAndEndAsStated: BUSY rises with an accepted word, and falls with its completion. -/
theorem witness_start_end : step (State.reset.setHostProg [.wr 0x00 2#32]) = .next (nextOf (step (State.reset.setHostProg [.wr 0x00 2#32]))) ∧
    (State.reset.setHostProg [.wr 0x00 2#32]).busy = false ∧
    (nextOf (step (State.reset.setHostProg [.wr 0x00 2#32]))).busy = true ∧
    (nextOf (step (State.reset.setHostProg [.wr 0x00 2#32]))).lcmd ≠ State.reset.lcmd ∧
    step (inFlight headerBytes 4 2#32) = .next (ran headerBytes 4 2#32) ∧
    (inFlight headerBytes 4 2#32).busy = true ∧ (ran headerBytes 4 2#32).busy = false := by
  refine ⟨rfl, by decide, by decide, by decide, rfl, by decide, by decide⟩
/-- StatusBitsChangeAsStated: a completion sets DONE, ERR and a code, an acceptance clears all three, and so does a completion of a state
that reports while busy, which no run reaches. -/
theorem witness_status_bits : step (inFlight headerBytes 3 2#32) = .next (ran headerBytes 3 2#32) ∧
    (inFlight headerBytes 3 2#32).done = false ∧ (ran headerBytes 3 2#32).done = true ∧
    (inFlight headerBytes 3 2#32).err = false ∧ (ran headerBytes 3 2#32).err = true ∧
    (ran headerBytes 3 2#32).errcode ≠ (inFlight headerBytes 3 2#32).errcode ∧ (ran headerBytes 3 2#32).errcode ≠ 0#4 ∧
    step ((ran headerBytes 3 2#32).setHostProg [.wr 0x00 4#32]) = .next (((ran headerBytes 3 2#32).accept 4#32).record .written) ∧
    ((ran headerBytes 3 2#32).accept 4#32).done = false ∧ ((ran headerBytes 3 2#32).accept 4#32).err = false ∧
    ((ran headerBytes 3 2#32).accept 4#32).errcode = 0#4 ∧
    step { inFlight headerBytes 4 2#32 with err := true } = .next (nextOf (step { inFlight headerBytes 4 2#32 with err := true })) ∧
    (nextOf (step { inFlight headerBytes 4 2#32 with err := true })).err = false := by
  refine ⟨rfl, by decide, by decide, by decide, by decide, by decide, by decide, rfl, by decide, by decide, by decide, rfl, by decide⟩
/-- FailureReportStays: a machine that reports a failure, and its next step. -/
theorem witness_failed : (ran headerBytes 3 2#32).busy = false ∧ (ran headerBytes 3 2#32).err = true ∧
    step (ran headerBytes 3 2#32) = .next (ran headerBytes 3 2#32) := by
  refine ⟨by decide, by decide, rfl⟩
/-- ResultsChangeOnlyByTheirCommand: a completion that writes HDR. -/
theorem witness_result_changes : ¬ GroupKept .hdr (inFlight headerBytes 4 2#32) (ran headerBytes 4 2#32) ∧
    step (inFlight headerBytes 4 2#32) = .next (ran headerBytes 4 2#32) := by
  refine ⟨?_, rfl⟩
  unfold GroupKept
  decide
/-- InputChangesOnlyByHostWrites: host writes that change ILEN and IBUF. -/
theorem witness_input_changes :
    step (State.reset.setHostProg [.wr 0x08 4#32]) = .next (nextOf (step (State.reset.setHostProg [.wr 0x08 4#32]))) ∧
    (nextOf (step (State.reset.setHostProg [.wr 0x08 4#32]))).ilen ≠ State.reset.ilen ∧
    step (State.reset.setHostProg [.wr 0x5C 1#32]) = .next (nextOf (step (State.reset.setHostProg [.wr 0x5C 1#32]))) ∧
    (nextOf (step (State.reset.setHostProg [.wr 0x5C 1#32]))).ibuf ≠ State.reset.ibuf := by
  refine ⟨rfl, by decide, rfl, by decide⟩
end Sys2Proof.Tests
end

/-! PROOFS. The registers of the window and the result groups (10_state.md R26, R29, R30, R41, R42, R44). -/

namespace Sys2Proof.Machine

open Sys2Proof.Claims

/-! ## Fields of a word (00_scope.md R12) -/

/-- The field of the statements is the slice of the model. -/
theorem fld_eq_slice (v : Word) {hi lo : Nat} (h : lo ≤ hi) : fld v hi lo = slice v hi lo := by
  rw [fld, slice, Nat.sub_add_comm h]
  simp [BitVec.extractLsb_toNat, Nat.shiftRight_eq_div_pow]

theorem ofNat_slice (v : Word) {hi lo : Nat} (h : lo ≤ hi) :
    BitVec.ofNat (hi - lo + 1) (slice v hi lo) = v.extractLsb hi lo := by
  rw [← fld_eq_slice v h, fld, BitVec.ofNat_toNat, BitVec.setWidth_eq]

theorem laneByte_eq_extractLsb (v : Word) :
    laneByte v 31 24 = v.extractLsb 31 24 ∧ laneByte v 23 16 = v.extractLsb 23 16 ∧
      laneByte v 15 8 = v.extractLsb 15 8 ∧ laneByte v 7 0 = v.extractLsb 7 0 :=
  ⟨ofNat_slice v (by decide), ofNat_slice v (by decide), ofNat_slice v (by decide), ofNat_slice v (by decide)⟩

/-! ## Transactions at a register's own offset (10_state.md R23) -/

/-- An aligned word transaction at a register's offset reaches that register. -/
theorem regAt_offset (r : Reg) : regAt r.offset 4 = some r := by
  cases r with
  | ibuf k => fin_cases k <;> rfl
  | _ => rfl

theorem memRead_offset (s : State) (r : Reg) : memRead s r.offset 4 = .data (s.readReg r) := by
  rw [memRead, regAt_offset]

theorem memWrite_offset (s : State) (r : Reg) (v : Word) : memWrite s r.offset 4 v = s.writeReg v r := by
  rw [memWrite, regAt_offset]

theorem State.whenIdle_idle {s : State} (h : s.busy = false) (taken : State) : s.whenIdle taken = taken := by
  simp [State.whenIdle, h]

theorem State.whenIdle_busy {s : State} (h : s.busy = true) (taken : State) : s.whenIdle taken = s.markOverrun := by
  simp [State.whenIdle, h]

/-- The registers that only a completion writes (10_state.md R23, R44). -/
def readOnlyRegs : List Reg := [.extr, .lutr, .hdr0, .hdr1, .hdr2, .si0, .ch0, .ch1, .ch2, .ch3]

/-- A write to a read-only register changes nothing (10_state.md R44). -/
theorem State.writeReg_readOnly (s : State) (v : Word) {r : Reg} (h : r ∈ readOnlyRegs) :
    s.writeReg v r = (s, .busError) := by
  fin_cases h <;> rfl

theorem memWrite_cmd_idle {s : State} (h : s.busy = false) (w : Word) : memWrite s 0x00 4 w = (s.accept w, .written) := by
  rw [← State.whenIdle_idle h (s.accept w)]
  exact memWrite_offset s .cmd w

theorem memWrite_cmd_busy {s : State} (h : s.busy = true) (w : Word) : memWrite s 0x00 4 w = (s.markOverrun, .written) := by
  rw [← State.whenIdle_busy h (s.accept w)]
  exact memWrite_offset s .cmd w

theorem memWrite_ilen_idle {s : State} (h : s.busy = false) (v : Word) :
    memWrite s 0x08 4 v = (s.setIlen v, .written) := by
  rw [← State.whenIdle_idle h (s.setIlen v)]
  exact memWrite_offset s .ilen v

theorem memWrite_ibuf_idle {s : State} (h : s.busy = false) (k : Fin 8) (v : Word) :
    memWrite s (0x40 + 4 * k.val) 4 v = (s.setIbuf (s.ibuf.writeWord k.val v), .written) := by
  rw [← State.whenIdle_idle h (s.setIbuf (s.ibuf.writeWord k.val v))]
  exact memWrite_offset s (.ibuf k) v

theorem State.setIlen_eq_extractLsb (s : State) (v : Word) : s.setIlen v = { s with ilen := v.extractLsb 5 0 } := by
  have hlen : BitVec.ofNat 6 (slice v 5 0) = v.extractLsb 5 0 := ofNat_slice v (by decide)
  rw [State.setIlen, hlen]

/-- ILEN reads LEN in bits 5:0 and 0 above it (10_state.md R26). -/
theorem State.readReg_ilen_fields (s : State) :
    fld (s.readReg .ilen) 5 0 = s.ilen.toNat ∧ fld (s.readReg .ilen) 31 6 = 0 := by
  have hlen := s.ilen.isLt
  have hread : (s.readReg .ilen).toNat = s.ilen.toNat := by
    simp [State.readReg, pack]
    omega
  rw [fld_eq_slice _ (by decide), fld_eq_slice _ (by decide), slice, slice, hread]
  omega

/-- The four lanes of a word write, and that no other word's bytes change (20_memory.md R62). -/
theorem Memory.writeWord_lanes {m : Memory} (h : m.wf = true) (k : Fin 8) (v : Word) :
    (m.writeWord k.val v).read (4 * k.val) = v.extractLsb 31 24 ∧
      (m.writeWord k.val v).read (4 * k.val + 1) = v.extractLsb 23 16 ∧
      (m.writeWord k.val v).read (4 * k.val + 2) = v.extractLsb 15 8 ∧
      (m.writeWord k.val v).read (4 * k.val + 3) = v.extractLsb 7 0 ∧
      ∀ a, a / 4 ≠ k.val → (m.writeWord k.val v).read a = m.read a := by
  obtain ⟨h0, h1, h2, h3⟩ := laneByte_eq_extractLsb v
  rw [← h0, ← h1, ← h2, ← h3]
  simp only [Memory.read_writeWord h k.isLt]
  refine ⟨by simp, by simp, by simp, by simp, fun a ha => ?_⟩
  rw [if_neg (by omega), if_neg (by omega), if_neg (by omega), if_neg (by omega)]

/-! ## Broken preconditions (10_state.md R26, R45) -/

/-- A command whose precondition is broken fails with ContractViolation before it reads its input. -/
theorem runInstr_contractBroken (p : Params) (B : List Byte) {s : State} {i : Instr} (h : contractBroken s i) :
    runInstr p s.inputLength B i = .error .contractViolation := by
  cases i with
  | extract o w =>
    have hbad : (decide (s.inputLength > Config.ibufBytes) || extractorMisused s.inputLength o w) = true := by
      simpa [extractorMisused, State.inputLength, contractBroken, or_assoc] using h
    exact if_pos hbad
  | parseHdr => exact if_neg h
  | parseSi mode => cases mode <;> exact if_neg h
  | parseCh => exact if_neg h
  | lutBitrate _ _ => exact h.elim
  | lutSrate _ => exact h.elim
  | lutFsize _ _ => exact h.elim

/-- A length above IBUF breaks the precondition of every command that reads IBUF (10_state.md R26). -/
theorem contractBroken_of_long {s : State} {i : Instr} (h : 32 < s.ilen.toNat) (hi : groupOf i ≠ .lut) :
    contractBroken s i := by
  cases i with
  | extract o w => exact .inl h
  | parseHdr => exact fun he => by omega
  | parseSi mode => cases mode <;> exact fun he => by simp at he; omega
  | parseCh => exact fun he => by omega
  | lutBitrate _ _ => exact absurd rfl hi
  | lutSrate _ => exact absurd rfl hi
  | lutFsize _ _ => exact absurd rfl hi

theorem exec_of_error {s : State} {i : Instr} {e : Failure} (h : runInstr mhrp s.inputLength s.inputBytes i = .error e) :
    exec i s = .next (s.completeFail (some (groupOf i)) e) := by
  rw [exec_eq_finish, h, finish]

/-- A broken precondition is reported as code 8 (60_exceptions.md R250). -/
theorem exec_contractBroken {s : State} {i : Instr} (h : contractBroken s i) :
    ∃ t, exec i s = .next t ∧ t.err = true ∧ t.errcode = 8#4 := by
  obtain ⟨-, -, -, herr, hcode, -⟩ := State.completeFail_spec s (groupOf i) .contractViolation
  exact ⟨_, exec_of_error (runInstr_contractBroken mhrp s.inputBytes h), herr, hcode⟩

/-! ## Illegal words (30_encoding.md R90) -/

theorem engineStep_illegal {s : State} {d : DecodeError} (hb : s.busy = true) (hd : decode s.lcmd = .error d) :
    engineStep s = .next s.completeIllegal := by
  rw [engineStep, if_pos hb, hd]

/-- The completion of an illegal word writes no result group (10_state.md R30). -/
theorem State.completeIllegal_groupKept (s : State) (g : Group) : GroupKept g s s.completeIllegal := by
  cases g <;> exact ⟨rfl, rfl⟩

end Sys2Proof.Machine

namespace Sys2Proof.Claims

open Sys2Proof.Machine

/-- Settles O8: the write reaches CMD, which takes it while idle. -/
theorem commandAccepted : Obligations.CommandAccepted :=
  fun _ w h => memWrite_cmd_idle h w

/-- Settles O9: the write reaches CMD, which drops it while busy. -/
theorem commandWhileBusyDropped : Obligations.CommandWhileBusyDropped :=
  fun _ w h => memWrite_cmd_busy h w

/-- Settles O12: bit 16 of the word is 0 or 1, and OVERRUN stays in the first case only. -/
theorem statusWriteClearsOverrun : Obligations.StatusWriteClearsOverrun := by
  intro s v
  have hbit : fld v 16 16 = 0 ∨ fld v 16 16 = 1 := by
    have := (v.extractLsb 16 16).isLt
    unfold fld
    omega
  have hkeep : (s.overrun && decide (slice v 16 16 = 0)) = if fld v 16 16 = 1 then false else s.overrun := by
    rw [← fld_eq_slice v le_rfl]
    rcases hbit with h | h <;> simp [h]
  rw [← hkeep]
  exact memWrite_offset s .status v

/-- Settles O11: the read-only offsets are those of `readOnlyRegs`, and ILEN and IBUF take a write while idle. -/
theorem readOnlyAndStoringWrites : Obligations.ReadOnlyAndStoringWrites := by
  refine ⟨fun s off v hoff => ?_, fun s v h => ?_, fun s k v h => ?_⟩
  · change off ∈ readOnlyRegs.map Reg.offset at hoff
    obtain ⟨r, hr, rfl⟩ := List.mem_map.mp hoff
    rw [memWrite_offset, s.writeReg_readOnly v hr]
  · rw [memWrite_ilen_idle h, State.setIlen_eq_extractLsb]
  · exact ⟨s.ibuf.writeWord k.val v, memWrite_ibuf_idle h k v, fun hwf => Memory.writeWord_lanes hwf k v⟩

/-- Settles O16: a stored length reads back in its six bits, and a wrong or long one breaks the command's precondition. -/
theorem ilenRegister : Obligations.IlenRegister := by
  refine ⟨fun s v h => ?_, rfl, fun s i h => exec_contractBroken h, fun s i h hbr hsr hfs => ?_⟩
  · rw [memWrite_ilen_idle h, State.setIlen_eq_extractLsb]
    exact ⟨_, memRead_offset _ .ilen, State.readReg_ilen_fields _⟩
  · refine exec_contractBroken (contractBroken_of_long h ?_)
    cases i with
    | lutBitrate index layer => exact absurd rfl (hbr index layer)
    | lutSrate index => exact absurd rfl (hsr index)
    | lutFsize kbps hz => exact absurd rfl (hfs kbps hz)
    | _ => exact nofun

/-- Every command keeps the other groups; its own takes the result and VALID, or is cleared (10_state.md R30). -/
theorem exec_groups (i : Instr) (s : State) :
    ∃ t, exec i s = .next t ∧ (∀ g, g ≠ groupOf i → GroupKept g s t) ∧
      (∀ r, runInstr mhrp s.inputLength s.inputBytes i = .ok r →
        t.groupResult (groupOf i) = r ∧ t.groupValid (groupOf i) = true) ∧
      ∀ e, runInstr mhrp s.inputLength s.inputBytes i = .error e →
        t.groupValid (groupOf i) = false ∧ t.groupResult (groupOf i) = (groupOf i).cleared := by
  rcases exec_cases i s with ⟨r, hr, hg, hexec⟩ | ⟨e, he, hexec⟩
  · obtain ⟨-, -, -, -, -, hres, hval, hother⟩ := State.completeOk_spec s r
    rw [← hg]
    refine ⟨_, hexec, hother, fun r' hr' => ?_, fun e he => ?_⟩
    · obtain rfl := Except.ok.inj (hr.symm.trans hr')
      exact ⟨hres, hval⟩
    · cases hr.symm.trans he
  · obtain ⟨-, -, -, -, -, hres, hval, hother⟩ := State.completeFail_spec s (groupOf i) e
    exact ⟨_, hexec, hother, fun r hr => (by cases he.symm.trans hr), fun _ _ => ⟨hval, hres⟩⟩

/-- Settles O20: the groups by definition, the commands by `exec_groups`, the illegal words by their completion. -/
theorem resultGroups : Obligations.ResultGroups := by
  refine ⟨fun _ _ => rfl, fun _ _ => rfl, fun _ => rfl, fun _ _ => rfl, rfl, fun _ => rfl, rfl,
    fun _ => ⟨rfl, rfl, rfl, rfl, rfl⟩, fun i s => ?_, fun s d hb hd => ?_⟩
  · obtain ⟨t, hexec, hother, hok, herr⟩ := exec_groups i s
    refine ⟨t, hexec, hother, hok, fun e he => ?_⟩
    obtain ⟨hval, hres⟩ := herr e he
    refine ⟨hval, hres.trans ?_⟩
    cases groupOf i <;> rfl
  · exact ⟨_, engineStep_illegal hb hd, s.completeIllegal_groupKept⟩

end Sys2Proof.Claims

/-! PROOFS. Bus errors, and the byte lanes of the IBUF words (20_memory.md R62, R65, R66). -/

namespace Sys2Proof.Machine

/-! ## Transactions that reach no register (20_memory.md R65, R66) -/

/-- A misaligned offset, or a size other than 4 bytes, reaches no register (20_memory.md R65). -/
theorem regAt_misaligned_or_resized {off size : Nat} (h : off % 4 ≠ 0 ∨ size ≠ 4) : regAt off size = none :=
  if_neg fun ⟨haligned, hsize⟩ => h.elim (· haligned) (· hsize)

/-- A transaction that reaches no register is a bus error and changes nothing, read or write. -/
theorem busError_of_regAt_none (s : State) {off size : Nat} (v : Word) (h : regAt off size = none) :
    memRead s off size = .busError ∧ memWrite s off size v = (s, .busError) := by
  rw [memRead, memWrite, h]
  exact ⟨rfl, rfl⟩

/-- The word offsets of the window that the register map leaves out (10_state.md R23, 20_memory.md R66). -/
def unmappedOffsets : List Nat := [0x34, 0x38, 0x3C, 0x60, 0x64, 0x68, 0x6C, 0x70, 0x74, 0x78, 0x7C]

theorem regAt_unmapped : ∀ off ∈ unmappedOffsets, regAt off 4 = none := by decide

/-! ## The lanes of a word read (20_memory.md R62) -/

/-- A word read is the number with the four bytes as its base-256 digits, the byte at `4k` the highest. -/
theorem Memory.readWord_toNat (m : Memory) (k : Nat) :
    (m.readWord k).toNat = (m.read (4 * k)).toNat * 2 ^ 24 + (m.read (4 * k + 1)).toNat * 2 ^ 16 +
      (m.read (4 * k + 2)).toNat * 2 ^ 8 + (m.read (4 * k + 3)).toNat := by
  have h0 := (m.read (4 * k)).isLt
  have h1 := (m.read (4 * k + 1)).isLt
  have h2 := (m.read (4 * k + 2)).isLt
  have h3 := (m.read (4 * k + 3)).isLt
  simp only [Memory.readWord, pack, BitVec.toNat_ofNat, List.foldr_cons, List.foldr_nil]
  omega

/-- Each lane of a word read is the byte of its index. -/
theorem Memory.readWord_lanes (m : Memory) (k : Nat) :
    (m.readWord k).extractLsb 31 24 = m.read (4 * k) ∧ (m.readWord k).extractLsb 23 16 = m.read (4 * k + 1) ∧
      (m.readWord k).extractLsb 15 8 = m.read (4 * k + 2) ∧ (m.readWord k).extractLsb 7 0 = m.read (4 * k + 3) := by
  have hword := m.readWord_toNat k
  have h0 := (m.read (4 * k)).isLt
  have h1 := (m.read (4 * k + 1)).isLt
  have h2 := (m.read (4 * k + 2)).isLt
  have h3 := (m.read (4 * k + 3)).isLt
  refine ⟨?_, ?_, ?_, ?_⟩ <;> apply BitVec.eq_of_toNat_eq <;>
    rw [BitVec.extractLsb_toNat, Nat.shiftRight_eq_div_pow, hword] <;> omega

/-- A word written to IBUF is read back whole over the bus. -/
theorem memRead_setIbuf_writeWord {s : State} (hwf : s.ibuf.wf = true) (k : Fin 8) (v : Word) :
    memRead (s.setIbuf (s.ibuf.writeWord k.val v)) (0x40 + 4 * k.val) 4 = .data v :=
  (memRead_offset _ (.ibuf k)).trans (congrArg BusResp.data (Memory.readWord_writeWord hwf k.isLt v))

end Sys2Proof.Machine

namespace Sys2Proof.Claims

open Sys2Proof.Machine

/-- Settles O13: the first two kinds of transaction reach no register, and the third is O11's write to a read-only one. -/
theorem busErrorsChangeNothing : Obligations.BusErrorsChangeNothing :=
  ⟨fun s _ _ v h => busError_of_regAt_none s v (regAt_misaligned_or_resized h),
    fun s off v h => busError_of_regAt_none s v (regAt_unmapped off h), readOnlyAndStoringWrites.1⟩

/-- Settles O15: a read shows the lanes of the word, an idle write sets them, and the rule's example is a write to word 0. -/
theorem ibufLaneOrder : Obligations.IbufLaneOrder := by
  refine ⟨fun s k => ⟨_, memRead_offset s (.ibuf k), s.ibuf.readWord_lanes k.val⟩, fun s k v h hwf => ?_, fun s h hwf => ?_⟩
  · obtain ⟨h0, h1, h2, h3, -⟩ := Memory.writeWord_lanes hwf k v
    rw [memWrite_ibuf_idle h]
    exact ⟨h0, h1, h2, h3, memRead_setIbuf_writeWord hwf k v⟩
  · have hwrite : memWrite s 0x40 4 0xFFFB9000#32 = _ := memWrite_ibuf_idle h 0 0xFFFB9000#32
    obtain ⟨h0, h1, h2, h3, -⟩ := Memory.writeWord_lanes hwf 0 0xFFFB9000#32
    rw [hwrite]
    exact ⟨h0, h1, h2, h3⟩

end Sys2Proof.Claims

/-! PROOFS. The illegal words, and the legal words whose operands are out of range (30_encoding.md R90). -/

namespace Sys2Proof

/-- Everything the decoder refuses: the reserved opcodes, and each format with a reserved bit of it set. -/
theorem decode_isError_iff (w : Word) : (∃ e, decode w = .error e) ↔
    (slice w 3 0 = 0 ∨ 8 ≤ slice w 3 0) ∨ (slice w 3 0 = 1 ∧ slice w 31 17 ≠ 0) ∨ (slice w 3 0 = 2 ∧ slice w 31 4 ≠ 0) ∨
      (slice w 3 0 = 3 ∧ slice w 31 6 ≠ 0) ∨ (slice w 3 0 = 4 ∧ slice w 31 4 ≠ 0) ∨ (slice w 3 0 = 5 ∧ slice w 31 10 ≠ 0) ∨
      (slice w 3 0 = 6 ∧ slice w 31 6 ≠ 0) ∨ (slice w 3 0 = 7 ∧ slice w 31 30 ≠ 0) := by
  unfold decode
  split
  case h_8 =>
    have hreserved : slice w 3 0 = 0 ∨ 8 ≤ slice w 3 0 := by
      simp only [imp_false] at *
      omega
    exact iff_of_true ⟨_, rfl⟩ (.inl hreserved)
  all_goals
    rename_i hop
    rw [unlessReserved_isError]
    simp [hop]

end Sys2Proof

namespace Sys2Proof.Machine

open Sys2Proof.Claims

/-- A legal command whose precondition is broken completes with ContractViolation, its own group cleared. -/
theorem engineStep_contractBroken {s : State} {i : Instr} (hb : s.busy = true) (hd : decode s.lcmd = .ok i)
    (h : contractBroken s i) : engineStep s = .next (s.completeFail (some (groupOf i)) .contractViolation) := by
  rw [engineStep, if_pos hb, hd]
  exact exec_of_error (runInstr_contractBroken mhrp s.inputBytes h)

end Sys2Proof.Machine

namespace Sys2Proof.Claims

open Sys2Proof.Machine

/-- Settles O6: the decoder's refusals, the acceptance of O8, and the completions of an illegal word and of a broken
precondition, which a WIDTH out of range and a MODE that does not match ILEN are. -/
theorem illegalWords : Obligations.IllegalWords := by
  refine ⟨fun w => ?_, fun s w _ _ h => commandAccepted s w h, fun s _ hd hb => engineStep_illegal hb hd,
    fun s _ _ hwidth hd hb => ?_, fun s _ hlen hd hb => engineStep_contractBroken hb hd hlen⟩
  · simpa only [fld_eq_slice w, Nat.zero_le, Nat.reduceLeDiff] using decode_isError_iff w
  · exact engineStep_contractBroken hb hd (.inr (hwidth.imp_right .inl))

end Sys2Proof.Claims

/-! PROOFS. The Bit-Field Extractor as the sum over the bits of its field (40_bitfield.md R101). -/

namespace Sys2Proof.Claims

open Sys2Proof.Machine

@[simp] theorem bitsSum_zero (byte : Nat → Byte) (o : Nat) : bitsSum byte o 0 = 0 := rfl

/-- One more bit doubles the weight of every bit before it. -/
theorem bitsSum_succ (byte : Nat → Byte) (o w : Nat) :
    bitsSum byte o (w + 1) = 2 * bitsSum byte o w + bitOf byte (o + w) := by
  have doubled : ∀ j ∈ Finset.range w,
      bitOf byte (o + j) * 2 ^ (w + 1 - 1 - j) = 2 * (bitOf byte (o + j) * 2 ^ (w - 1 - j)) := by
    intro j hj
    have hexp : w + 1 - 1 - j = w - 1 - j + 1 := by
      have := Finset.mem_range.mp hj
      omega
    rw [hexp, Nat.pow_succ]
    ring
  rw [bitsSum, bitsSum, Finset.sum_range_succ, Finset.sum_congr rfl doubled, Finset.mul_sum]
  simp

/-- The extractor is the sum over the bits of its field, for any source of bytes that has the same bits there. -/
theorem bits_eq_bitsSum {B : List Byte} {byte : Nat → Byte} {o w : Nat}
    (h : ∀ j, j < w → streamBit B (o + j) = bitOf byte (o + j)) : bits B o w = bitsSum byte o w := by
  induction w with
  | zero => rfl
  | succ w ih => rw [bits_succ, bitsSum_succ, ih fun j hj => h j (by omega), h w (by omega)]

/-- Settles O24: the recursion and the sum agree bit by bit, and the bound is `bits_lt`. -/
theorem extractorIsBitSum : Obligations.ExtractorIsBitSum :=
  fun B o w _ _ _ => ⟨bits_eq_bitsSum fun _ _ => rfl, bits_lt B o w⟩

end Sys2Proof.Claims

/-! PROOFS. The Format Tables and their lookups, and the completion of a LUT command (41_tables.md R120 to R128). -/

namespace Sys2Proof.Machine

open Sys2Proof.Claims

/-! ## A table against a partial function -/

/-- A table is the partial function `f` when every entry is a value of `f` and every key of `f` has an entry. -/
theorem lookup_eq_of_sound_complete {α β : Type} [BEq α] [LawfulBEq α] {table : List (α × β)} {f : α → Option β}
    (sound : ∀ e ∈ table, f e.1 = some e.2) (complete : ∀ k v, f k = some v → ∃ e ∈ table, e.1 = k) (k : α) :
    table.lookup k = f k := by
  cases hk : table.lookup k with
  | some v =>
    obtain ⟨before, after, rfl, -⟩ := List.lookup_eq_some_iff.mp hk
    exact (sound (k, v) (by simp)).symm
  | none =>
    cases hf : f k with
    | none => rfl
    | some v =>
      obtain ⟨e, he, rfl⟩ := complete k v hf
      have := List.lookup_eq_none_iff.mp hk e he
      simp at this

/-! ## The frame-size table (41_tables.md R124) -/

theorem frameSizeOf_eq_some_iff {kbps hz n : Nat} : frameSizeOf kbps hz = some n ↔
    (kbps ∈ kbpsColumn 1 ∧ hz ∈ [32000, 44100, 48000]) ∧ 144000 * kbps / hz = n := by
  simp [frameSizeOf]

/-- The largest frame has 1440 bytes: 320 kbps at 32000 Hz. -/
theorem frameSizeOf_le {kbps hz n : Nat} (h : frameSizeOf kbps hz = some n) : n ≤ 1440 := by
  obtain ⟨⟨hkbps, hhz⟩, rfl⟩ := frameSizeOf_eq_some_iff.mp h
  have kbps_le : ∀ k ∈ kbpsColumn 1, k ≤ 320 := by decide
  have hz_ge : ∀ z ∈ [32000, 44100, 48000], 32000 ≤ z := by decide
  calc 144000 * kbps / hz ≤ 144000 * 320 / 32000 :=
        Nat.div_le_div (Nat.mul_le_mul_left _ (kbps_le kbps hkbps)) (hz_ge hz hhz) (by decide)
    _ = 1440 := by decide

theorem frameSizeTable_sound : ∀ e ∈ frameSizeTable, frameSizeOf e.1.1 e.1.2 = some e.2 := by decide

theorem frameSizeTable_complete :
    ∀ kbps ∈ kbpsColumn 1, ∀ hz ∈ [32000, 44100, 48000], ∃ e ∈ frameSizeTable, e.1 = (kbps, hz) := by decide

/-- The table is the Layer III formula on its keys, and has no other key. -/
theorem lookup_frameSizeTable (kbps hz : Nat) : frameSizeTable.lookup (kbps, hz) = frameSizeOf kbps hz := by
  refine lookup_eq_of_sound_complete (f := fun k => frameSizeOf k.1 k.2) frameSizeTable_sound (fun k _ hk => ?_) (kbps, hz)
  obtain ⟨⟨hkbps, hhz⟩, -⟩ := frameSizeOf_eq_some_iff.mp hk
  exact frameSizeTable_complete k.1 hkbps k.2 hhz

/-! ## The bitrate lookup (41_tables.md R123) -/

theorem brLookup_fifteen (p : Params) (l : Layer) : brLookup p l 15 = .error .invalidBitrate := if_pos rfl

theorem brLookup_zero_of_mem {p : Params} {l : Layer} (h : l ∈ p.freeReject) :
    brLookup p l 0 = .error .invalidBitrate := if_pos h

theorem brLookup_zero_of_not_mem {p : Params} {l : Layer} (h : l ∉ p.freeReject) : brLookup p l 0 = .ok 0 := if_neg h

theorem brLookup_of_between (p : Params) (l : Layer) {i : Nat} (hlo : 1 ≤ i) (hhi : i ≤ 14) :
    brLookup p l i = entryOr .invalidBitrate (bitrateAt p l i) := by
  rw [brLookup, if_neg (by omega), if_neg (by omega)]

/-! ## The sampling-frequency lookup (41_tables.md R122, R126) -/

theorem lookup_srateTable : ∀ i : Nat, srateTable.lookup i = hzOf i
  | 0 | 1 | 2 | _ + 3 => rfl

theorem srLookup_eq_hzOf (i : Nat) : srLookup i = entryOr .invalidSamplingRate (hzOf i) := by
  rw [srLookup, lookup_srateTable]

theorem hzOf_lt {i hz : Nat} (h : hzOf i = some hz) : hz < 2 ^ 16 := by
  have small : ∀ z ∈ [44100, 48000, 32000], z < 2 ^ 16 := by decide
  exact small hz (List.mem_of_getElem? h)

/-! ## The completion of a LUT command (41_tables.md R127 to R129) -/

/-- A 16-bit value keeps its number in LUTR. -/
theorem lutrOf_eq {v : Nat} (h : v < 2 ^ 16) : lutrOf v = .lut (BitVec.ofNat 32 v) := by
  rw [lutrOf, Nat.mod_eq_of_lt h]
  simp [pack]

/-- A LUT command that finds a 16-bit value reports it in LUTR. -/
theorem exec_lut_of_ok {s : State} {i : Instr} {v : Nat} (hi : groupOf i = .lut) (hv : v < 2 ^ 16)
    (h : runInstr mhrp s.inputLength s.inputBytes i = .ok (lutrOf v)) :
    exec i s = .next { succeeded s with lutr := BitVec.ofNat 32 v, lutValid := true } := by
  rw [exec_eq_finish, hi, h, lutrOf_eq hv]
  rfl

/-- A LUT command that fails clears LUTR and reports its code. -/
theorem exec_lut_of_error {s : State} {i : Instr} {e : Failure} (hi : groupOf i = .lut)
    (h : runInstr mhrp s.inputLength s.inputBytes i = .error e) :
    exec i s = .next { failedWith s e.code with lutr := 0#32, lutValid := false } := by
  rw [exec_of_error h, hi]
  rfl

theorem runLutSrate_of_hzOf {index hz : Nat} (h : hzOf index = some hz) : runLutSrate index = .ok (lutrOf hz) := by
  rw [runLutSrate, srLookup_eq_hzOf, h]
  rfl

theorem runLutSrate_of_hzOf_none {index : Nat} (h : hzOf index = none) :
    runLutSrate index = .error .invalidSamplingRate := by
  rw [runLutSrate, srLookup_eq_hzOf, h]
  rfl

end Sys2Proof.Machine

namespace Sys2Proof.Claims

open Sys2Proof.Machine

/-- Settles O31: the table is `frameSizeOf`, whose largest value is 1440. -/
theorem frameSizeTable : Obligations.FrameSizeTable := by
  refine ⟨rfl, lookup_frameSizeTable, fun e he => ?_, (lookup_frameSizeTable 128 44100).trans rfl⟩
  have := frameSizeOf_le (frameSizeTable_sound e he)
  omega

/-- Settles O27: the branches of the lookup, index 0 by membership in FREE_REJECT_LAYERS. -/
theorem bitrateLookup : Obligations.BitrateLookup := by
  refine ⟨brLookup_fifteen, fun _ _ => brLookup_zero_of_mem, fun _ _ => brLookup_zero_of_not_mem,
    fun p l i k hlo hhi hk => ?_, rfl, fun _ => brLookup_zero_of_not_mem List.not_mem_nil⟩
  rw [brLookup_of_between p l hlo hhi, hk, entryOr]

/-- Settles O30: the lookup is `hzOf`, and LUT_SRATE completes with its 16-bit value, or fails on index 3. -/
theorem samplingRateLookup : Obligations.SamplingRateLookup := by
  refine ⟨srLookup_eq_hzOf 0, srLookup_eq_hzOf 1, srLookup_eq_hzOf 2, srLookup_eq_hzOf 3, rfl, fun s index hz h => ?_,
    fun s => ?_⟩
  · exact exec_lut_of_ok rfl (hzOf_lt h) (runLutSrate_of_hzOf h)
  · exact exec_lut_of_error (i := .lutSrate 3) rfl (runLutSrate_of_hzOf_none rfl)

end Sys2Proof.Claims

/-! PROOFS. PARSE_HDR does not depend on the `private_bit` of its header, stream bit 23 (42_header.md R158). -/

namespace Sys2Proof.Machine

/-- What a completion reports is fixed by the command's outcome, whatever state it starts in (10_state.md R45). -/
theorem exec_reports_congr {i : Instr} {s t s' t' : State}
    (h : runInstr mhrp s.inputLength s.inputBytes i = runInstr mhrp t.inputLength t.inputBytes i)
    (hs : exec i s = .next s') (ht : exec i t = .next t') :
    s'.err = t'.err ∧ s'.errcode = t'.errcode ∧ s'.groupResult (groupOf i) = t'.groupResult (groupOf i) ∧
      s'.groupValid (groupOf i) = t'.groupValid (groupOf i) := by
  rw [exec_eq_finish] at hs ht
  rw [h] at hs
  cases hrun : runInstr mhrp t.inputLength t.inputBytes i with
  | ok r =>
    rw [hrun] at hs ht
    obtain rfl := Host.Outcome.next.inj hs
    obtain rfl := Host.Outcome.next.inj ht
    rw [← runInstr_group hrun]
    simp [State.completeOk_spec]
  | error e =>
    rw [hrun] at hs ht
    obtain rfl := Host.Outcome.next.inj hs
    obtain rfl := Host.Outcome.next.inj ht
    simp [State.completeFail_spec]

/-- Two inputs agree in every bit of the frame header but `private_bit`. -/
def AgreeBesidePrivateBit (B B' : List Byte) : Prop := ∀ k, k < 32 → k ≠ 23 → streamBit B k = streamBit B' k

/-- The fields the header parser reads (30_encoding.md R91). -/
def headerFields : List Field :=
  [hdrSync, hdrVersion, hdrLayer, hdrProtection, hdrBitrate, hdrSampling, hdrPadding, hdrMode, hdrMsStereo, hdrIntensity,
    hdrCopyright, hdrOriginal, hdrEmphasis]

/-- Each field ends before `private_bit`, or begins after it and ends inside the header. -/
theorem headerFields_miss_privateBit :
    ∀ f ∈ headerFields, f.offset + f.width ≤ 23 ∨ 23 < f.offset ∧ f.offset + f.width ≤ 32 := by decide

theorem headerField_congr {B B' : List Byte} (h : AgreeBesidePrivateBit B B') :
    ∀ f ∈ headerFields, f.num B = f.num B' ∧ f.val B = f.val B' ∧ f.flag B = f.flag B' := by
  intro f hf
  have hmiss := headerFields_miss_privateBit f hf
  exact Field.congr fun j hj => h (f.offset + j) (by omega) (by omega)

/-- The header parser reads its input through `headerFields` alone. -/
theorem parseFrameHeader_congr (p : Params) {B B' : List Byte}
    (h : ∀ f ∈ headerFields, f.num B = f.num B' ∧ f.val B = f.val B' ∧ f.flag B = f.flag B') :
    parseFrameHeader p B = parseFrameHeader p B' := by
  simp only [headerFields, List.forall_mem_cons] at h
  unfold parseFrameHeader syncCheck
  simp only [h]

/-- PARSE_HDR's outcome is the same on two inputs of one length that agree beside `private_bit` in a 4-byte header. -/
theorem runParseHdr_congr (p : Params) {n : Nat} {B B' : List Byte} (h : n = 4 → AgreeBesidePrivateBit B B') :
    runParseHdr p n B = runParseHdr p n B' := by
  unfold runParseHdr
  split
  case isTrue hn => rw [parseFrameHeader_congr p (headerField_congr (h hn))]
  case isFalse => rfl

end Sys2Proof.Machine

namespace Sys2Proof.Claims

open Sys2Proof.Machine

/-- Settles O35: the stream bits of a 4-byte input are those of IBUF, so the parser's outcome is the same, and with it
what the completion reports. -/
theorem privateBitIgnored : Obligations.PrivateBitIgnored := by
  intro s t s' t' hilen hbits hs ht
  have hlen : s.inputLength = t.inputLength := congrArg BitVec.toNat hilen
  have hout : runInstr mhrp s.inputLength s.inputBytes .parseHdr = runInstr mhrp t.inputLength t.inputBytes .parseHdr := by
    rw [← hlen]
    refine runParseHdr_congr mhrp fun hfour k hk hne => ?_
    calc streamBit s.inputBytes k = bitOf s.ibuf.read k := s.streamBit_inputBytes (by omega)
      _ = bitOf t.ibuf.read k := hbits k hk hne
      _ = streamBit t.inputBytes k := (t.streamBit_inputBytes (by omega)).symm
  exact exec_reports_congr (i := .parseHdr) hout hs ht

end Sys2Proof.Claims

/-! PROOFS. PARSE_SI checks the length of its block and nothing else (43_sideinfo.md R190, R191). -/

namespace Sys2Proof.Machine

open Sys2Proof.Claims

theorem sideInfoLength_eq (mode : ChannelMode) : sideInfoLength mode = if mode = .singleChannel then 17 else 32 := by
  cases mode <;> rfl

theorem runParseSi_of_length (p : Params) {mode : ChannelMode} {n : Nat} (B : List Byte)
    (h : n = if mode = .singleChannel then 17 else 32) :
    runParseSi p mode n B = .ok (.si (parseSideInfo p.siLayout mode B).si0) :=
  if_pos (h.trans (sideInfoLength_eq mode).symm)

theorem exec_of_ok {s : State} {i : Instr} {r : Result} (h : runInstr mhrp s.inputLength s.inputBytes i = .ok r) :
    exec i s = .next (s.completeOk r) := by
  rw [exec_eq_finish, h, finish]

/-- PARSE_SI on a block of the length its mode requires completes with the parsed fields in SI0, whatever the bytes are. -/
theorem exec_parseSi_of_length {s : State} {mode : ChannelMode}
    (h : s.ilen.toNat = if mode = .singleChannel then 17 else 32) :
    exec (.parseSi mode) s =
      .next { succeeded s with si0 := (parseSideInfo mhrp.siLayout mode s.inputBytes).si0, siValid := true } :=
  exec_of_ok (i := .parseSi mode) (runParseSi_of_length mhrp s.inputBytes h)

/-- PARSE_SI on a block of any other length fails with ContractViolation and clears SI0. -/
theorem exec_parseSi_of_wrong_length {s : State} {mode : ChannelMode} (h : contractBroken s (.parseSi mode)) :
    exec (.parseSi mode) s = .next { failedWith s 8#4 with si0 := 0#32, siValid := false } :=
  exec_of_error (runInstr_contractBroken mhrp s.inputBytes h)

end Sys2Proof.Machine

namespace Sys2Proof.Claims

open Sys2Proof.Machine

/-- Settles O37: a wrong length is PARSE_SI's broken precondition, and on the right one its completion is a success. -/
theorem sideInfoLength : Obligations.SideInfoLength := by
  refine ⟨fun _ _ hwrong => exec_parseSi_of_wrong_length hwrong, fun s t mode hright hnext => ?_⟩
  rw [exec_parseSi_of_length hright] at hnext
  obtain rfl := Host.Outcome.next.inj hnext
  rfl

end Sys2Proof.Claims

/-! PROOFS. The decoder and the encoder are inverse to each other, and the decoder reads the rows of the opcode table
(30_encoding.md R80 to R90, R95). -/

namespace Sys2Proof

open Sys2Proof.Claims

/-! ## The formats (30_encoding.md R82 to R87) -/

/-- The lowest reserved bit of an opcode's format. -/
def reservedFrom : Nat → Nat
  | 1 => 17
  | 5 => 10
  | 3 | 6 => 6
  | 7 => 30
  | _ => 4

/-- An accepted word has its command's opcode in OP, and the reserved bits of the opcode's format are 0. -/
theorem decode_opcode {w : Word} {i : Instr} (h : decode w = .ok i) :
    slice w 3 0 = i.opcode ∧ slice w 31 (reservedFrom i.opcode) = 0 := by
  rcases decode_ok_cases h with ⟨hop, hres, rfl⟩ | ⟨hop, hres, rfl⟩ | ⟨hop, hres, rfl⟩ | ⟨hop, hres, rfl⟩ | ⟨hop, hres, rfl⟩ |
    ⟨hop, hres, rfl⟩ | ⟨hop, hres, rfl⟩ <;> exact ⟨hop, hres⟩

/-- A word with one of the seven opcodes and with the reserved bits of its format 0 is accepted. -/
theorem decode_of_format {w : Word} (hlo : 1 ≤ slice w 3 0) (hhi : slice w 3 0 ≤ 7)
    (hres : slice w 31 (reservedFrom (slice w 3 0)) = 0) : ∃ i, decode w = .ok i := by
  unfold decode
  generalize slice w 3 0 = op at *
  interval_cases op <;> exact ⟨_, unlessReserved_ok.mpr ⟨hres, rfl⟩⟩

/-- An accepted word's operands fit their fields. -/
theorem decode_wf {w : Word} {i : Instr} (h : decode w = .ok i) : i.wf = true := by
  rcases decode_ok_cases h with ⟨-, -, rfl⟩ | ⟨-, -, rfl⟩ | ⟨-, -, rfl⟩ | ⟨-, -, rfl⟩ | ⟨-, -, rfl⟩ | ⟨-, -, rfl⟩ | ⟨-, -, rfl⟩
  · simpa [Instr.wf] using ⟨slice_lt w 11 4, slice_lt w 16 12⟩
  · rfl
  · rfl
  · rfl
  · simpa [Instr.wf] using ⟨slice_lt w 7 4, slice_lt w 9 8⟩
  · simpa [Instr.wf] using slice_lt w 5 4
  · simpa [Instr.wf] using ⟨slice_lt w 12 4, slice_lt w 29 13⟩

/-- An accepted word is its opcode, its operand fields and its reserved bits, which are 0: no bit is dropped. -/
theorem encode_of_decode {w : Word} {i : Instr} (h : decode w = .ok i) : encode i = w := by
  have hw := w.isLt
  have hmode := ChannelMode.code_ofCode (slice_lt w 5 4)
  rcases decode_ok_cases h with ⟨hop, hres, rfl⟩ | ⟨hop, hres, rfl⟩ | ⟨hop, hres, rfl⟩ | ⟨hop, hres, rfl⟩ | ⟨hop, hres, rfl⟩ |
    ⟨hop, hres, rfl⟩ | ⟨hop, hres, rfl⟩
  all_goals
    apply BitVec.eq_of_toNat_eq
    simp only [encode, pack, List.foldr_cons, List.foldr_nil, BitVec.toNat_ofNat, hmode]
    simp only [slice] at *
    omega

/-! ## The mask of a format -/

/-- The bits of a word from `lo` on and its four lowest bits: those the format of an opcode fixes. -/
def formatMask (lo : Nat) : Word := BitVec.allOnes 32 <<< lo ||| 15#32

theorem getLsbD_formatMask (lo j : Nat) :
    (formatMask lo).getLsbD j = (decide (j < 32 ∧ lo ≤ j) || decide (j < 4)) := by
  have h15 : (15#32).getLsbD j = decide (j < 4) := (BitVec.testBit_toNat 15#32).symm.trans (Nat.testBit_two_pow_sub_one 4 j)
  rw [formatMask, BitVec.getLsbD_or, h15, BitVec.getLsbD_shiftLeft, BitVec.getLsbD_allOnes]
  congr 1
  simp only [← decide_not, ← Bool.decide_and, decide_eq_decide]
  omega

/-- A masked word is the number of its upper and its lower part. -/
theorem and_formatMask_toNat (w : Word) {lo : Nat} (h4 : 4 ≤ lo) (h32 : lo < 32) :
    (w &&& formatMask lo).toNat = 2 ^ lo * slice w 31 lo + slice w 3 0 := by
  have hlow : slice w 3 0 < 2 ^ lo := (slice_lt w 3 0).trans_le (Nat.pow_le_pow_right (by decide) h4)
  apply Nat.eq_of_testBit_eq
  intro j
  rw [Nat.testBit_two_pow_mul_add _ hlow, BitVec.testBit_toNat, BitVec.getLsbD_and, getLsbD_formatMask]
  simp only [slice, Nat.testBit_mod_two_pow, Nat.testBit_div_two_pow, BitVec.testBit_toNat]
  by_cases hj : j < lo
  · have hle : ¬ lo ≤ j := by omega
    simp [hj, hle, Bool.and_comm]
  · have hle : lo ≤ j := by omega
    have h4j : ¬ j < 4 := by omega
    have hlt : decide (j < 32) = decide (j - lo < 31 + 1 - lo) := decide_eq_decide.mpr (by omega)
    simp [hj, hle, h4j, hlt, Bool.and_comm, Nat.sub_add_cancel]

/-- A word matches an opcode under its format's mask exactly when OP is the opcode and the reserved bits are 0. -/
theorem and_formatMask_eq_iff (w : Word) {lo op : Nat} (h4 : 4 ≤ lo) (h32 : lo < 32) (hop : op < 16) :
    w &&& formatMask lo = BitVec.ofNat 32 op ↔ slice w 3 0 = op ∧ slice w 31 lo = 0 := by
  have hlow := slice_lt w 3 0
  have h16 : 16 ≤ 2 ^ lo := (Nat.pow_le_pow_right (by decide) h4 : 2 ^ 4 ≤ 2 ^ lo)
  rw [← BitVec.toNat_inj, and_formatMask_toNat w h4 h32, BitVec.toNat_ofNat, Nat.mod_eq_of_lt (by omega)]
  rcases Nat.eq_zero_or_pos (slice w 31 lo) with hz | hpos
  · simp [hz]
  · have : 2 ^ lo ≤ 2 ^ lo * slice w 31 lo := Nat.le_mul_of_pos_right _ hpos
    constructor
    · intro h; omega
    · rintro ⟨-, h⟩; omega

/-! ## The rows of the table (30_encoding.md R89) -/

/-- Each row of the table is its opcode under the mask of its format. -/
theorem opcodeRows_format : ∀ r ∈ opcodeRows, 1 ≤ r.op ∧ r.op ≤ 7 ∧ 4 ≤ reservedFrom r.op ∧ reservedFrom r.op < 32 ∧
    r.mask = formatMask (reservedFrom r.op) ∧ r.bits = BitVec.ofNat 32 r.op := by decide

/-- Two rows of one opcode are the same row. -/
theorem opcodeRows_inj : ∀ r ∈ opcodeRows, ∀ r' ∈ opcodeRows, r.op = r'.op → r = r' := by decide

/-- Every command has a row. -/
theorem exists_opcodeRow (i : Instr) : ∃ r ∈ opcodeRows, i.opcode = r.op := by
  have all : ∀ op ∈ [1, 2, 3, 4, 5, 6, 7], ∃ r ∈ opcodeRows, op = r.op := by decide
  exact all _ (by cases i <;> simp [Instr.opcode])

/-- A word matches a row exactly when OP is the row's opcode and the reserved bits of the opcode's format are 0. -/
theorem matches_row_iff {r : OpcodeRow} (hr : r ∈ opcodeRows) (w : Word) :
    w &&& r.mask = r.bits ↔ slice w 3 0 = r.op ∧ slice w 31 (reservedFrom r.op) = 0 := by
  obtain ⟨-, h7, h4, h32, hmask, hbits⟩ := opcodeRows_format r hr
  rw [hmask, hbits]
  exact and_formatMask_eq_iff w h4 h32 (by omega)

/-- The decoder selects the row that a word matches. -/
theorem matches_row_iff_decode {r : OpcodeRow} (hr : r ∈ opcodeRows) (w : Word) :
    w &&& r.mask = r.bits ↔ ∃ i, decode w = .ok i ∧ i.opcode = r.op := by
  obtain ⟨h1, h7, -⟩ := opcodeRows_format r hr
  rw [matches_row_iff hr w]
  constructor
  · rintro ⟨hop, hres⟩
    obtain ⟨i, hi⟩ := decode_of_format (w := w) (by omega) (by omega) (by rw [hop]; exact hres)
    exact ⟨i, hi, (decode_opcode hi).1.symm.trans hop⟩
  · rintro ⟨i, hi, hop⟩
    rw [← hop]
    exact decode_opcode hi

end Sys2Proof

namespace Sys2Proof.Claims

/-- Settles O1: one lemma for each format. -/
theorem decodeOfEncodeIsIdentity : Obligations.DecodeOfEncodeIsIdentity := by
  intro i
  cases i with
  | extract offset width => exact Laws.DecodesBack.extract offset width
  | parseHdr => exact Laws.DecodesBack.parseHdr
  | parseSi mode => exact Laws.DecodesBack.parseSi mode
  | parseCh => exact Laws.DecodesBack.parseCh
  | lutBitrate index layer => exact Laws.DecodesBack.lutBitrate index layer
  | lutSrate index => exact Laws.DecodesBack.lutSrate index
  | lutFsize kbps hz => exact Laws.DecodesBack.lutFsize kbps hz

/-- Settles O2: the fields of an accepted word, with its reserved bits 0, make up the word. -/
theorem encodeOfDecodeIsIdentity : Obligations.EncodeOfDecodeIsIdentity :=
  fun _ _ h => ⟨decode_wf h, encode_of_decode h⟩

/-- Settles O3: a word matches a row exactly when the decoder accepts it with the row's opcode, which OP alone gives. -/
theorem decoderFollowsOpcodeTable : Obligations.DecoderFollowsOpcodeTable := by
  refine ⟨fun r hr w => matches_row_iff_decode hr w, fun r hr r' hr' w h h' => ?_, fun w => ?_⟩
  · have hop := ((matches_row_iff hr w).mp h).1
    have hop' := ((matches_row_iff hr' w).mp h').1
    exact opcodeRows_inj r hr r' hr' (hop.symm.trans hop')
  · cases hd : decode w with
    | error e =>
      refine iff_of_true (fun r hr hm => ?_) ⟨e, rfl⟩
      obtain ⟨i, hi, -⟩ := (matches_row_iff_decode hr w).mp hm
      cases hd.symm.trans hi
    | ok i =>
      obtain ⟨r, hr, hop⟩ := exists_opcodeRow i
      exact iff_of_false (fun hno => hno r hr ((matches_row_iff_decode hr w).mpr ⟨i, hd, hop⟩)) (by simp)

/-- Settles O5: the operands of each format are slices of the word. -/
theorem operandsAreWordFields : Obligations.OperandsAreWordFields := by
  intro w i h
  rcases decode_ok_cases h with ⟨-, -, rfl⟩ | ⟨-, -, rfl⟩ | ⟨-, -, rfl⟩ | ⟨-, -, rfl⟩ | ⟨-, -, rfl⟩ | ⟨-, -, rfl⟩ | ⟨-, -, rfl⟩
  · exact ⟨(Machine.fld_eq_slice w (by decide)).symm, (Machine.fld_eq_slice w (by decide)).symm⟩
  · trivial
  · exact (ChannelMode.code_ofCode (slice_lt w 5 4)).trans (Machine.fld_eq_slice w (by decide)).symm
  · trivial
  · exact ⟨(Machine.fld_eq_slice w (by decide)).symm, (Machine.fld_eq_slice w (by decide)).symm⟩
  · exact (Machine.fld_eq_slice w (by decide)).symm
  · exact ⟨(Machine.fld_eq_slice w (by decide)).symm, (Machine.fld_eq_slice w (by decide)).symm⟩

/-- Settles O4: the decoder computes each word's command. -/
theorem specExampleWordsDecode : Obligations.SpecExampleWordsDecode :=
  ⟨rfl, rfl, rfl, rfl, rfl, rfl, rfl⟩

end Sys2Proof.Claims

/-! PROOFS. The fields of the result registers: a field of a packed register is the value packed there
(10_state.md R28, R31 to R40). -/

namespace Sys2Proof.Machine

open Sys2Proof.Claims

/-! ## A packed word as a number -/

/-- The number a list of fields packs to. -/
def packedValue (fields : List (Nat × Nat)) : Nat := (fields.map fun f => f.2 * 2 ^ f.1).sum

theorem packedValue_nil : packedValue [] = 0 := by simp [packedValue]

theorem packedValue_cons (lo v : Nat) (rest : List (Nat × Nat)) :
    packedValue ((lo, v) :: rest) = v * 2 ^ lo + packedValue rest := by simp [packedValue]

theorem toNat_pack (fields : List (Nat × Nat)) : (pack fields).toNat = packedValue fields % 2 ^ 32 := by
  rw [pack, BitVec.toNat_ofNat, packedValue, List.sum, List.foldr_map]

theorem slice_pack (fields : List (Nat × Nat)) (hi lo : Nat) :
    slice (pack fields) hi lo = packedValue fields % 2 ^ 32 / 2 ^ lo % 2 ^ (hi + 1 - lo) := by
  rw [slice, toNat_pack]

/-! ## STATUS -/

theorem State.statusWord_fields (s : State) :
    slice s.statusWord 0 0 = s.busy.toNat ∧ slice s.statusWord 1 1 = s.done.toNat ∧ slice s.statusWord 2 2 = s.err.toNat ∧
      slice s.statusWord 3 3 = 0 ∧ slice s.statusWord 7 4 = s.errcode.toNat ∧ slice s.statusWord 8 8 = s.extValid.toNat ∧
      slice s.statusWord 9 9 = s.lutValid.toNat ∧ slice s.statusWord 10 10 = s.hdrValid.toNat ∧
      slice s.statusWord 11 11 = s.siValid.toNat ∧ slice s.statusWord 12 12 = s.chValid.toNat ∧ slice s.statusWord 15 13 = 0 ∧
      slice s.statusWord 16 16 = s.overrun.toNat ∧ slice s.statusWord 31 17 = 0 := by
  have h0 := s.busy.toNat_lt
  have h1 := s.done.toNat_lt
  have h2 := s.err.toNat_lt
  have h3 := s.errcode.isLt
  have h4 := s.extValid.toNat_lt
  have h5 := s.lutValid.toNat_lt
  have h6 := s.hdrValid.toNat_lt
  have h7 := s.siValid.toNat_lt
  have h8 := s.chValid.toNat_lt
  have h9 := s.overrun.toNat_lt
  simp only [State.statusWord, slice_pack, packedValue_cons, packedValue_nil, Nat.add_zero]
  refine ⟨?_, ?_, ?_, ?_, ?_, ?_, ?_, ?_, ?_, ?_, ?_, ?_, ?_⟩ <;> omega

/-! ## EXTR and LUTR -/

/-- A value of 16 bits keeps the reserved bits of EXTR and LUTR 0 (10_state.md R31, R32). -/
theorem slice_pack_16 {v : Nat} (h : v < 2 ^ 16) : slice (pack [(0, v)]) 31 16 = 0 := by
  simp only [slice_pack, packedValue_cons, packedValue_nil, Nat.add_zero]
  omega

/-! ## HDR0, HDR1, HDR2 -/

theorem versionCode_lt (v : Version) : versionCode v < 3 := by cases v <;> decide

theorem layerCode_lt (l : Layer) : layerCode l < 4 := by cases l <;> decide

theorem FrameHeader.hdr0_fields (h : FrameHeader) :
    slice h.hdr0 1 0 = versionCode h.version ∧ slice h.hdr0 3 2 = layerCode h.layer ∧ slice h.hdr0 4 4 = h.hasCrc.toNat ∧
      slice h.hdr0 5 5 = h.hasPadding.toNat ∧ slice h.hdr0 7 6 = h.mode.code ∧ slice h.hdr0 8 8 = h.intensityStereo.toNat ∧
      slice h.hdr0 9 9 = h.msStereo.toNat ∧ slice h.hdr0 10 10 = h.isCopyrighted.toNat ∧
      slice h.hdr0 11 11 = h.isOriginal.toNat ∧ slice h.hdr0 13 12 = h.emphasis.toNat ∧ slice h.hdr0 31 14 = 0 := by
  have h0 := versionCode_lt h.version
  have h1 := layerCode_lt h.layer
  have h2 := h.hasCrc.toNat_lt
  have h3 := h.hasPadding.toNat_lt
  have h4 := h.mode.code_lt
  have h5 := h.intensityStereo.toNat_lt
  have h6 := h.msStereo.toNat_lt
  have h7 := h.isCopyrighted.toNat_lt
  have h8 := h.isOriginal.toNat_lt
  have h9 := h.emphasis.isLt
  simp only [FrameHeader.hdr0, slice_pack, packedValue_cons, packedValue_nil, Nat.add_zero]
  refine ⟨?_, ?_, ?_, ?_, ?_, ?_, ?_, ?_, ?_, ?_, ?_⟩ <;> omega

theorem FrameHeader.hdr1_fields {h : FrameHeader} (hz : h.samplingRateHz < 2 ^ 16) (hk : h.bitrateKbps < 2 ^ 9) :
    slice h.hdr1 15 0 = h.samplingRateHz ∧ slice h.hdr1 24 16 = h.bitrateKbps ∧ slice h.hdr1 31 25 = 0 := by
  simp only [FrameHeader.hdr1, slice_pack, packedValue_cons, packedValue_nil, Nat.add_zero]
  refine ⟨?_, ?_, ?_⟩ <;> omega

theorem FrameHeader.hdr2_fields {h : FrameHeader} (hs : h.frameSizeBytes < 2 ^ 16) :
    h.hdr2.toNat = h.frameSizeBytes ∧ slice h.hdr2 15 0 = h.frameSizeBytes ∧ slice h.hdr2 31 16 = 0 := by
  simp only [FrameHeader.hdr2, toNat_pack, slice_pack, packedValue_cons, packedValue_nil, Nat.add_zero]
  refine ⟨?_, ?_, ?_⟩ <;> omega

/-! ## SI0 -/

theorem ScaleSelection.scfsi_lt (x : ScaleSelection) : x.scfsi < 2 ^ 8 := by
  cases x with
  | mono v => exact v.isLt.trans (by decide)
  | stereoDoc v => exact v.isLt.trans (by decide)
  | stereoIso v => exact v.isLt

theorem ScaleSelection.stereo_lt (x : ScaleSelection) : x.stereo < 2 := by cases x <;> simp [ScaleSelection.stereo]

theorem SideInfo.si0_fields (i : SideInfo) :
    slice i.si0 8 0 = i.mainDataBegin.toNat ∧ slice i.si0 15 9 = 0 ∧ slice i.si0 23 16 = i.selection.scfsi ∧
      slice i.si0 24 24 = i.selection.stereo ∧ slice i.si0 31 25 = 0 := by
  have h0 := i.mainDataBegin.isLt
  have h1 := i.selection.scfsi_lt
  have h2 := i.selection.stereo_lt
  simp only [SideInfo.si0, slice_pack, packedValue_cons, packedValue_nil, Nat.add_zero]
  refine ⟨?_, ?_, ?_, ?_, ?_⟩ <;> omega

/-! ## CH0, CH1, CH2, CH3 -/

theorem Channel.ch0_fields (c : Channel) :
    slice c.ch0 11 0 = c.part23Length.toNat ∧ slice c.ch0 20 12 = c.bigValues.toNat ∧ slice c.ch0 28 21 = c.globalGain.toNat ∧
      slice c.ch0 31 29 = 0 := by
  have h0 := c.part23Length.isLt
  have h1 := c.bigValues.isLt
  have h2 := c.globalGain.isLt
  simp only [Channel.ch0, slice_pack, packedValue_cons, packedValue_nil, Nat.add_zero]
  refine ⟨?_, ?_, ?_, ?_⟩ <;> omega

theorem ChannelVariant.tag_lt (x : ChannelVariant) : x.tag < 2 := by cases x <;> simp [ChannelVariant.tag]

theorem Channel.ch1_fields (c : Channel) :
    slice c.ch1 3 0 = c.scalefacCompress.toNat ∧ slice c.ch1 4 4 = c.preemphasis.toNat ∧
      slice c.ch1 5 5 = c.scalefacScale.toNat ∧ slice c.ch1 6 6 = c.count1TableSelect.toNat ∧ slice c.ch1 7 7 = c.layout.tag ∧
      slice c.ch1 31 8 = 0 := by
  have h0 := c.scalefacCompress.isLt
  have h1 := c.preemphasis.toNat_lt
  have h2 := c.scalefacScale.toNat_lt
  have h3 := c.count1TableSelect.toNat_lt
  have h4 := c.layout.tag_lt
  simp only [Channel.ch1, slice_pack, packedValue_cons, packedValue_nil, Nat.add_zero]
  refine ⟨?_, ?_, ?_, ?_, ?_, ?_⟩ <;> omega

theorem ChannelVariant.ch2_fields (t0 t1 t2 : BitVec 5) (r0 : BitVec 4) (r1 : BitVec 3) :
    let w := (ChannelVariant.normal t0 t1 t2 r0 r1).ch2
    slice w 4 0 = t0.toNat ∧ slice w 9 5 = t1.toNat ∧ slice w 14 10 = t2.toNat ∧ slice w 18 15 = r0.toNat ∧
      slice w 21 19 = r1.toNat ∧ slice w 31 22 = 0 := by
  have h0 := t0.isLt
  have h1 := t1.isLt
  have h2 := t2.isLt
  have h3 := r0.isLt
  have h4 := r1.isLt
  simp only [ChannelVariant.ch2, slice_pack, packedValue_cons, packedValue_nil, Nat.add_zero]
  refine ⟨?_, ?_, ?_, ?_, ?_, ?_⟩ <;> omega

theorem blockTypeCode_lt (b : BlockType) : blockTypeCode b < 4 := by cases b <;> decide

theorem ChannelVariant.ch3_fields (b : BlockType) (t0 t1 : BitVec 5) (g0 g1 g2 : BitVec 3) :
    let w := (ChannelVariant.windowSwitched b t0 t1 g0 g1 g2).ch3
    slice w 1 0 = blockTypeCode b ∧ slice w 6 2 = t0.toNat ∧ slice w 11 7 = t1.toNat ∧ slice w 14 12 = g0.toNat ∧
      slice w 17 15 = g1.toNat ∧ slice w 20 18 = g2.toNat ∧ slice w 31 21 = 0 := by
  have h0 := blockTypeCode_lt b
  have h1 := t0.isLt
  have h2 := t1.isLt
  have h3 := g0.isLt
  have h4 := g1.isLt
  have h5 := g2.isLt
  simp only [ChannelVariant.ch3, slice_pack, packedValue_cons, packedValue_nil, Nat.add_zero]
  refine ⟨?_, ?_, ?_, ?_, ?_, ?_, ?_⟩ <;> omega

/-! ## The words of a LOAD (30_encoding.md R96) -/

/-- A word that covers four bytes of a LOAD has them in its lanes, the first one highest. -/
theorem loadWord_fields (bytes : List Byte) (k : Nat) :
    slice (loadWord bytes k) 31 24 = (bytes.getD (4 * k) 0).toNat ∧
      slice (loadWord bytes k) 23 16 = (bytes.getD (4 * k + 1) 0).toNat ∧
      slice (loadWord bytes k) 15 8 = (bytes.getD (4 * k + 2) 0).toNat ∧
      slice (loadWord bytes k) 7 0 = (bytes.getD (4 * k + 3) 0).toNat := by
  have h0 := (bytes.getD (4 * k) 0).isLt
  have h1 := (bytes.getD (4 * k + 1) 0).isLt
  have h2 := (bytes.getD (4 * k + 2) 0).isLt
  have h3 := (bytes.getD (4 * k + 3) 0).isLt
  simp only [loadWord, slice_pack, packedValue_cons, packedValue_nil, Nat.add_zero]
  refine ⟨?_, ?_, ?_, ?_⟩ <;> omega

end Sys2Proof.Machine

/-! PROOFS. EXTRACT and the LUT commands (40_bitfield.md R101 to R104, 41_tables.md R120 to R130). -/

namespace Sys2Proof.Machine

open Sys2Proof.Claims

/-! ## Fields of the stream in IBUF -/

/-- A field inside the input is the field of IBUF's bits (40_bitfield.md R101). -/
theorem State.bits_inputBytes {s : State} {o w : Nat} (h : o + w ≤ 8 * s.inputLength) : bits s.inputBytes o w = field s o w :=
  bits_eq_bitsSum fun _ _ => s.streamBit_inputBytes (by omega)

/-! A layout's field inside an input of `n` bytes: as a number, as a bit vector, and as a flag. -/

theorem Field.num_inputBytes (f : Field) {s : State} {n : Nat} (hn : s.inputLength = n) (h : f.offset + f.width ≤ 8 * n) :
    f.num s.inputBytes = field s f.offset f.width :=
  State.bits_inputBytes (hn ▸ h)

theorem Field.val_inputBytes (f : Field) {s : State} {n : Nat} (hn : s.inputLength = n) (h : f.offset + f.width ≤ 8 * n) :
    (f.val s.inputBytes).toNat = field s f.offset f.width :=
  (f.val_toNat _).trans (f.num_inputBytes hn h)

theorem Field.flag_inputBytes (f : Field) {s : State} {n : Nat} (hn : s.inputLength = n) (h : f.offset + f.width ≤ 8 * n)
    (h1 : f.width = 1) : (f.flag s.inputBytes).toNat = field s f.offset f.width :=
  (f.flag_toNat _ h1).trans (f.num_inputBytes hn h)

/-! ## EXTRACT -/

theorem runExtract_of_precondition {n o w : Nat} (B : List Byte) (hn : n ≤ 32) (hlo : 1 ≤ w) (hhi : w ≤ 16)
    (hend : o + w ≤ 8 * n) : runExtract o w n B = .ok (.ext (pack [(0, bits B o w)])) := by
  have hgood : (decide (n > Config.ibufBytes) || extractorMisused n o w) = false := by
    simp [extractorMisused, Config.ibufBytes, Config.maxWidth]
    omega
  rw [runExtract, hgood]
  rfl

/-! ## The bitrate and frame-size lookups of MHRP -/

/-- A layer code other than `'00'` is a layer, and its column of the bitrate table is that of the code (41_tables.md R120). -/
theorem layerDecode_of_pos {n : Nat} (hlo : 1 ≤ n) (hhi : n ≤ 3) : ∃ l, layerDecode n = .ok l ∧
    layerCode l = (if n = 3 then 1 else if n = 2 then 2 else 3) ∧
    ∀ i, i < 16 → brLookup mhrp l i = entryOr .invalidBitrate (kbpsOf n i) := by
  interval_cases n
  · exact ⟨.l3, rfl, rfl, fun i hi => by interval_cases i <;> rfl⟩
  · exact ⟨.l2, rfl, rfl, fun i hi => by interval_cases i <;> rfl⟩
  · exact ⟨.l1, rfl, rfl, fun i hi => by interval_cases i <;> rfl⟩

theorem kbpsColumn_lt : ∀ layer, ∀ k ∈ kbpsColumn layer, k < 2 ^ 9
  | 0 | 1 | 2 | 3 => by decide
  | _ + 4 => fun _ h => nomatch h

/-- Every kbps of the table, and the 0 of index 0, fits the nine bits of HDR1.BITRATE. -/
theorem kbpsOf_lt {layer index k : Nat} (h : kbpsOf layer index = some k) : k < 2 ^ 9 := by
  unfold kbpsOf at h
  split at h
  · obtain rfl := Option.some.inj h
    decide
  · exact kbpsColumn_lt layer k (List.mem_of_getElem? h)

theorem runLutBitrate_of_layerDecode (p : Params) (index : Nat) {layer : Nat} {l : Layer} (h : layerDecode layer = .ok l) :
    runLutBitrate p index layer = (brLookup p l index).map lutrOf := by
  rw [runLutBitrate, h]

theorem fsLookup_eq_frameSizeOf (kbps hz : Nat) : fsLookup mhrp kbps hz = entryOr .invalidBitrate (frameSizeOf kbps hz) :=
  congrArg (entryOr .invalidBitrate) (lookup_frameSizeTable kbps hz)

end Sys2Proof.Machine

namespace Sys2Proof.Claims

open Sys2Proof.Machine

/-- Settles O25: the precondition rules out the violation, and the field of the input is the field of IBUF. -/
theorem extractReadsField : Obligations.ExtractReadsField := by
  intro s o w hn hlo hhi hend
  have hbits : bits s.inputBytes o w = field s o w := State.bits_inputBytes hend
  have hrun : runInstr mhrp s.inputLength s.inputBytes (.extract o w) = .ok (.ext (pack [(0, bits s.inputBytes o w)])) :=
    runExtract_of_precondition s.inputBytes hn hlo hhi hend
  have hword : pack [(0, field s o w)] = BitVec.ofNat 32 (field s o w) := by simp [pack]
  refine ⟨?_, ?_⟩
  · rw [exec_of_ok hrun, hbits, hword]
    rfl
  · rw [← hbits]
    exact (bits_lt s.inputBytes o w).trans_le (Nat.pow_le_pow_right (by decide) hhi)

/-- Settles O26: the violation is EXTRACT's broken precondition. -/
theorem extractViolations : Obligations.ExtractViolations :=
  fun s o w h => exec_of_error (i := .extract o w) (runInstr_contractBroken mhrp s.inputBytes h)

/-- Settles O28: the layer code decodes, and the lookup is the column of the code. -/
theorem lutBitrateReadsTable : Obligations.LutBitrateReadsTable := by
  intro s index layer k hlayer hindex hk
  obtain ⟨hlo, hhi⟩ : 1 ≤ layer ∧ layer ≤ 3 := by simp at hlayer; omega
  obtain ⟨l, hl, -, hlook⟩ := layerDecode_of_pos hlo hhi
  refine exec_lut_of_ok rfl ((kbpsOf_lt hk).trans (by decide)) ?_
  rw [runInstr, runLutBitrate_of_layerDecode mhrp index hl, hlook index hindex, hk]
  rfl

/-- Settles O29: the reserved layer code fails before any lookup, and index 15 fails in every layer. -/
theorem lutBitrateFailures : Obligations.LutBitrateFailures := by
  refine ⟨fun s index => exec_lut_of_error (e := .unsupportedLayer) rfl rfl, fun s layer hlayer => ?_⟩
  obtain ⟨hlo, hhi⟩ : 1 ≤ layer ∧ layer ≤ 3 := by simp at hlayer; omega
  obtain ⟨l, hl, -⟩ := layerDecode_of_pos hlo hhi
  refine exec_lut_of_error (e := .invalidBitrate) rfl ?_
  rw [runInstr, runLutBitrate_of_layerDecode mhrp 15 hl, brLookup_fifteen]
  rfl

/-- Settles O32: the lookup is `frameSizeOf`, whose values have 16 bits. -/
theorem lutFsizeReadsTable : Obligations.LutFsizeReadsTable := by
  refine ⟨fun s kbps hz n h => ?_, fun s kbps hz h => ?_⟩
  · refine exec_lut_of_ok rfl ((frameSizeOf_le h).trans_lt (by decide)) ?_
    rw [runInstr, runLutFsize, fsLookup_eq_frameSizeOf, h]
    rfl
  · refine exec_lut_of_error (e := .invalidBitrate) rfl ?_
    rw [runInstr, runLutFsize, fsLookup_eq_frameSizeOf, h]
    rfl

end Sys2Proof.Claims

/-! PROOFS. PARSE_HDR: the fields of a decoded header, and the first failing step (42_header.md R150 to R167). -/

namespace Sys2Proof.Machine

open Sys2Proof.Claims

/-! ## Outcomes of composed steps -/

theorem map_eq_ok_iff {ε α β : Type} {x : Except ε α} {f : α → β} {b : β} : x.map f = .ok b ↔ ∃ a, x = .ok a ∧ f a = b := by
  cases x <;> simp [Except.map]

theorem map_eq_error_iff {ε α β : Type} {x : Except ε α} {f : α → β} {e : ε} : x.map f = .error e ↔ x = .error e := by
  cases x <;> simp [Except.map]

theorem bind_eq_ok_iff {ε α β : Type} {x : Except ε α} {f : α → Except ε β} {b : β} :
    x.bind f = .ok b ↔ ∃ a, x = .ok a ∧ f a = .ok b := by
  cases x <;> simp [Except.bind]

theorem bind_eq_error_iff {ε α β : Type} {x : Except ε α} {f : α → Except ε β} {e : ε} :
    x.bind f = .error e ↔ x = .error e ∨ ∃ a, x = .ok a ∧ f a = .error e := by
  cases x <;> simp [Except.bind]

/-! ## The steps of the parser (42_header.md R151 to R163) -/

/-- The header with the values its steps found, and every other field as the stream has it. -/
def headerOf (B : List Byte) (version : Version) (layer : Layer) (kbps hz size : Nat) : FrameHeader where
  version := version
  layer := layer
  hasCrc := !hdrProtection.flag B
  hasPadding := hdrPadding.flag B
  mode := ChannelMode.ofCode (hdrMode.num B)
  intensityStereo := hdrIntensity.flag B
  msStereo := hdrMsStereo.flag B
  isCopyrighted := hdrCopyright.flag B
  isOriginal := hdrOriginal.flag B
  emphasis := hdrEmphasis.val B
  bitrateKbps := kbps
  samplingRateHz := hz
  frameSizeBytes := size

/-- The parser is its six checks in SRC's order; then it reads the rest. -/
theorem parseFrameHeader_steps (p : Params) (B : List Byte) : parseFrameHeader p B =
    (syncCheck B).bind fun _ => (versionDecode (hdrVersion.num B)).bind fun version =>
      (layerDecode (hdrLayer.num B)).bind fun layer => (brLookup p layer (hdrBitrate.num B)).bind fun kbps =>
        (srLookup (hdrSampling.num B)).bind fun hz => (fsLookup p kbps hz).bind fun size =>
          .ok (headerOf B version layer kbps hz size) := rfl

/-- The parser decodes a header exactly when every step succeeds. -/
theorem parseFrameHeader_ok {p : Params} {B : List Byte} {h : FrameHeader} : parseFrameHeader p B = .ok h ↔
    ∃ version layer kbps hz size, syncCheck B = .ok () ∧ versionDecode (hdrVersion.num B) = .ok version ∧
      layerDecode (hdrLayer.num B) = .ok layer ∧ brLookup p layer (hdrBitrate.num B) = .ok kbps ∧
      srLookup (hdrSampling.num B) = .ok hz ∧ fsLookup p kbps hz = .ok size ∧ headerOf B version layer kbps hz size = h := by
  rw [parseFrameHeader_steps]
  simp [bind_eq_ok_iff, Unique.exists_iff]

/-- A version code other than `'01'` is a version. -/
theorem versionDecode_of_ne {n : Nat} (hn : n < 4) (hne : n ≠ 1) : ∃ v, versionDecode n = .ok v ∧
    versionCode v = if n = 3 then 0 else if n = 2 then 1 else 2 := by
  interval_cases n
  · exact ⟨.v2_5, rfl, rfl⟩
  · exact absurd rfl hne
  · exact ⟨.v2, rfl, rfl⟩
  · exact ⟨.v1, rfl, rfl⟩

/-- The output code of a decoded layer is not that of the reserved one. -/
theorem layerCode_of_layerDecode {n : Nat} {l : Layer} (h : layerDecode n = .ok l) : layerCode l ≠ 0 := by
  unfold layerDecode at h
  split at h
  · obtain rfl := Except.ok.inj h; decide
  · obtain rfl := Except.ok.inj h; decide
  · obtain rfl := Except.ok.inj h; decide
  · cases h

/-! ## Failures (42_header.md R166) -/

/-- The code a command reports, 0 for success. -/
def reportedCode : Except Failure Result → BitVec 4
  | .ok _ => 0#4
  | .error e => e.code

theorem runParseHdr_of_length {s : State} (h : s.ilen = 4#6) :
    runParseHdr mhrp s.inputLength s.inputBytes = (parseFrameHeader mhrp s.inputBytes).map FrameHeader.result :=
  if_pos (congrArg BitVec.toNat h)

theorem runParseHdr_of_wrong_length {s : State} (h : s.ilen ≠ 4#6) :
    runParseHdr mhrp s.inputLength s.inputBytes = .error .contractViolation :=
  if_neg fun hn => h (BitVec.eq_of_toNat_eq hn)

/-- The fields that a step of the parser checks. -/
theorem checkedFields_inputBytes {s : State} (hlen : s.ilen = 4#6) :
    hdrSync.num s.inputBytes = field s 0 11 ∧ hdrVersion.num s.inputBytes = field s 11 2 ∧
      hdrLayer.num s.inputBytes = field s 13 2 ∧ hdrBitrate.num s.inputBytes = field s 16 4 ∧
      hdrSampling.num s.inputBytes = field s 20 2 := by
  have hn : s.inputLength = 4 := congrArg BitVec.toNat hlen
  exact ⟨hdrSync.num_inputBytes hn (by decide), hdrVersion.num_inputBytes hn (by decide), hdrLayer.num_inputBytes hn (by decide),
    hdrBitrate.num_inputBytes hn (by decide), hdrSampling.num_inputBytes hn (by decide)⟩

theorem checkedFields_lt {s : State} (hlen : s.ilen = 4#6) : field s 11 2 < 4 ∧ field s 13 2 < 4 ∧ field s 16 4 < 16 := by
  obtain ⟨-, hversion, hlayer, hbitrate, -⟩ := checkedFields_inputBytes hlen
  rw [← hversion, ← hlayer, ← hbitrate]
  exact ⟨hdrVersion.num_lt _, hdrLayer.num_lt _, hdrBitrate.num_lt _⟩

/-- PARSE_HDR reports the first failing step. -/
theorem headerCode_eq (s : State) : headerCode s = reportedCode (runParseHdr mhrp s.inputLength s.inputBytes) := by
  by_cases hlen : s.ilen = 4#6
  case neg =>
    rw [runParseHdr_of_wrong_length hlen, headerCode, if_pos hlen]
    rfl
  obtain ⟨hsync, hversion, hlayer, hbitrate, hsampling⟩ := checkedFields_inputBytes hlen
  obtain ⟨hvlt, hllt, hblt⟩ := checkedFields_lt hlen
  rw [runParseHdr_of_length hlen, parseFrameHeader_steps, syncCheck, hsync, hversion, hlayer, hbitrate, hsampling, headerCode,
    if_neg (not_not.mpr hlen)]
  by_cases hs : field s 0 11 = 0x7FF
  case neg =>
    rw [if_neg hs, if_pos hs]
    rfl
  rw [if_pos hs, if_neg (not_not.mpr hs)]
  by_cases hv : field s 11 2 = 1
  case pos =>
    rw [if_pos hv, hv]
    rfl
  obtain ⟨v, hdec, -⟩ := versionDecode_of_ne hvlt hv
  by_cases hl : field s 13 2 = 0
  case pos =>
    rw [if_neg hv, if_pos hl, hdec, hl]
    rfl
  obtain ⟨l, hldec, -, hlook⟩ := layerDecode_of_pos (Nat.pos_of_ne_zero hl) (Nat.le_of_lt_succ hllt)
  rw [if_neg hv, if_neg hl, hdec, hldec]
  simp only [Except.bind, hlook _ hblt, srLookup_eq_hzOf]
  cases kbpsOf (field s 13 2) (field s 16 4) with
  | none => rfl
  | some kbps =>
    cases hzOf (field s 20 2) with
    | none => rfl
    | some hz =>
      simp only [entryOr, fsLookup_eq_frameSizeOf]
      cases frameSizeOf kbps hz <;> rfl

/-! ## A decoded header (42_header.md R165) -/

/-- A header that no step rejects is decoded, with the rates and the size of the tables. -/
theorem parseFrameHeader_of_fields {s : State} {kbps hz size : Nat} (hlen : s.ilen = 4#6) (hs : field s 0 11 = 0x7FF)
    (hv : field s 11 2 ≠ 1) (hl : field s 13 2 ≠ 0) (hk : kbpsOf (field s 13 2) (field s 16 4) = some kbps)
    (hz' : hzOf (field s 20 2) = some hz) (hsize : frameSizeOf kbps hz = some size) :
    ∃ version layer, parseFrameHeader mhrp s.inputBytes = .ok (headerOf s.inputBytes version layer kbps hz size) ∧
      versionCode version = (if field s 11 2 = 3 then 0 else if field s 11 2 = 2 then 1 else 2) ∧
      layerCode layer = if field s 13 2 = 3 then 1 else if field s 13 2 = 2 then 2 else 3 := by
  obtain ⟨hsync, hversion, hlayer, hbitrate, hsampling⟩ := checkedFields_inputBytes hlen
  obtain ⟨hvlt, hllt, hblt⟩ := checkedFields_lt hlen
  obtain ⟨v, hdec, hvcode⟩ := versionDecode_of_ne hvlt hv
  obtain ⟨l, hldec, hlcode, hlook⟩ := layerDecode_of_pos (Nat.pos_of_ne_zero hl) (Nat.le_of_lt_succ hllt)
  refine ⟨v, l, parseFrameHeader_ok.mpr ⟨v, l, kbps, hz, size, if_pos (hsync.trans hs), ?_, ?_, ?_, ?_, ?_, rfl⟩, hvcode, hlcode⟩
  · rw [hversion, hdec]
  · rw [hlayer, hldec]
  · rw [hbitrate, hlook _ hblt, hk]
    rfl
  · rw [hsampling, srLookup_eq_hzOf, hz']
    rfl
  · rw [fsLookup_eq_frameSizeOf, hsize]
    rfl

theorem frameSizeOf_keys_lt {kbps hz size : Nat} (h : frameSizeOf kbps hz = some size) : kbps < 2 ^ 9 ∧ hz < 2 ^ 16 := by
  obtain ⟨⟨hkbps, hhz⟩, -⟩ := frameSizeOf_eq_some_iff.mp h
  have hz_lt : ∀ z ∈ [32000, 44100, 48000], z < 2 ^ 16 := by decide
  exact ⟨kbpsColumn_lt 1 kbps hkbps, hz_lt hz hhz⟩

/-- The bits of HDR0 that are copied from the stream of a 4-byte header. -/
theorem headerOf_hdr0_fields {s : State} (hlen : s.ilen = 4#6) (version : Version) (layer : Layer) (kbps hz size : Nat) :
    let w := (headerOf s.inputBytes version layer kbps hz size).hdr0
    slice w 4 4 = (if field s 15 1 = 0 then 1 else 0) ∧ slice w 5 5 = field s 22 1 ∧ slice w 7 6 = field s 24 2 ∧
      slice w 8 8 = field s 27 1 ∧ slice w 9 9 = field s 26 1 ∧ slice w 10 10 = field s 28 1 ∧ slice w 11 11 = field s 29 1 ∧
      slice w 13 12 = field s 30 2 := by
  have hn : s.inputLength = 4 := congrArg BitVec.toNat hlen
  obtain ⟨-, -, hcrc, hpad, hmode, hint, hms, hcopy, horig, hemph, -⟩ :=
    (headerOf s.inputBytes version layer kbps hz size).hdr0_fields
  have hprot : (!hdrProtection.flag s.inputBytes).toNat = if field s 15 1 = 0 then 1 else 0 := by
    have hflag : (hdrProtection.flag s.inputBytes).toNat = field s 15 1 := hdrProtection.flag_inputBytes hn (by decide) rfl
    rw [← hflag]
    cases hdrProtection.flag s.inputBytes <;> rfl
  have hcode : (ChannelMode.ofCode (hdrMode.num s.inputBytes)).code = field s 24 2 :=
    (ChannelMode.code_ofCode (hdrMode.num_lt s.inputBytes)).trans (hdrMode.num_inputBytes hn (by decide))
  exact ⟨hcrc.trans hprot, hpad.trans (hdrPadding.flag_inputBytes hn (by decide) rfl), hmode.trans hcode,
    hint.trans (hdrIntensity.flag_inputBytes hn (by decide) rfl), hms.trans (hdrMsStereo.flag_inputBytes hn (by decide) rfl),
    hcopy.trans (hdrCopyright.flag_inputBytes hn (by decide) rfl), horig.trans (hdrOriginal.flag_inputBytes hn (by decide) rfl),
    hemph.trans (hdrEmphasis.val_inputBytes hn (by decide))⟩

end Sys2Proof.Machine

namespace Sys2Proof.Claims

open Sys2Proof.Machine

/-- Settles O34: the code is that of the parser's first failing step, and a failure clears the group. -/
theorem headerFailures : Obligations.HeaderFailures := by
  intro s h
  rw [headerCode_eq] at h ⊢
  cases hrun : runParseHdr mhrp s.inputLength s.inputBytes with
  | ok r =>
    rw [hrun] at h
    exact absurd rfl h
  | error e => exact exec_of_error (i := .parseHdr) hrun

/-- Settles O33: the parser decodes the header, and each field of its registers is packed from the stream or the tables. -/
theorem headerDecoded : Obligations.HeaderDecoded := by
  intro s kbps hz size hlen hs hv hl hk hz' hsize
  obtain ⟨version, layer, hparse, hvcode, hlcode⟩ := parseFrameHeader_of_fields hlen hs hv hl hk hz' hsize
  obtain ⟨hklt, hzlt⟩ := frameSizeOf_keys_lt hsize
  have hslt : size < 2 ^ 16 := (frameSizeOf_le hsize).trans_lt (by decide)
  have hrun : runInstr mhrp s.inputLength s.inputBytes .parseHdr =
      .ok (headerOf s.inputBytes version layer kbps hz size).result :=
    (runParseHdr_of_length hlen).trans (by rw [hparse]; rfl)
  refine ⟨_, _, _, exec_of_ok hrun, ?_⟩
  simp only [fld_eq_slice, Nat.zero_le, Nat.reduceLeDiff, le_refl]
  obtain ⟨h0v, h0l, -, -, -, -, -, -, -, -, h0r⟩ := (headerOf s.inputBytes version layer kbps hz size).hdr0_fields
  obtain ⟨h4, h5, h6, h8, h9, h10, h11, h12⟩ := headerOf_hdr0_fields hlen version layer kbps hz size
  obtain ⟨h1z, h1k, h1r⟩ := (headerOf s.inputBytes version layer kbps hz size).hdr1_fields hzlt hklt
  obtain ⟨-, h2s, h2r⟩ := (headerOf s.inputBytes version layer kbps hz size).hdr2_fields hslt
  refine ⟨h0v.trans hvcode, h0l.trans hlcode, h4, h5, h6, h8, h9, h10, h11, h12, h0r, h1z, h1k, h1r, h2s, h2r⟩

end Sys2Proof.Claims

/-! PROOFS. PARSE_SI under both layouts (43_sideinfo.md R190 to R197). -/

namespace Sys2Proof.Machine

open Sys2Proof.Claims

/-! ## The fields of a block of the required length -/

/-- The bits of `scale_factor_selection` in a layout (43_sideinfo.md R193, R194). -/
def selectionField : SiLayout → ChannelMode → Field
  | .doc, .singleChannel => siDocMono
  | .doc, _ => siDocStereo
  | .iso, .singleChannel => siIsoMono
  | .iso, _ => siIsoStereo

theorem field_selectionField_doc (s : State) (mode : ChannelMode) :
    field s (selectionField .doc mode).offset (selectionField .doc mode).width =
      if mode = .singleChannel then field s 9 4 else field s 9 6 := by
  cases mode <;> rfl

theorem field_selectionField_iso (s : State) (mode : ChannelMode) :
    field s (selectionField .iso mode).offset (selectionField .iso mode).width =
      if mode = .singleChannel then field s 14 4 else field s 12 8 := by
  cases mode <;> rfl

/-- The parser's union: the selection's bits, and one variant for one channel, another for two (43_sideinfo.md R197). -/
theorem parseSideInfo_selection (layout : SiLayout) (mode : ChannelMode) (B : List Byte) :
    (parseSideInfo layout mode B).selection.scfsi = (selectionField layout mode).num B ∧
      (parseSideInfo layout mode B).selection.stereo = if mode = .singleChannel then 0 else 1 := by
  cases layout <;> cases mode <;> exact ⟨Field.val_toNat _ B, rfl⟩

/-- The selection's field lies inside every block of the required length. -/
theorem selectionField_end (layout : SiLayout) (mode : ChannelMode) :
    (selectionField layout mode).offset + (selectionField layout mode).width ≤ 8 * sideInfoLength mode := by
  cases layout <;> cases mode <;> decide

/-- The bits of SI0 for a block of the required length, by layout. -/
theorem parseSideInfo_si0 {s : State} {mode : ChannelMode} (layout : SiLayout)
    (h : s.ilen.toNat = if mode = .singleChannel then 17 else 32) :
    let w := (parseSideInfo layout mode s.inputBytes).si0
    slice w 8 0 = field s 0 9 ∧ slice w 15 9 = 0 ∧
      slice w 23 16 = field s (selectionField layout mode).offset (selectionField layout mode).width ∧
      slice w 24 24 = (if mode = .singleChannel then 0 else 1) ∧ slice w 31 25 = 0 := by
  have hlen : s.inputLength = sideInfoLength mode := h.trans (sideInfoLength_eq mode).symm
  have hmain : (siMainDataBegin.val s.inputBytes).toNat = field s 0 9 :=
    siMainDataBegin.val_inputBytes hlen (by cases mode <;> decide)
  have hsel := (selectionField layout mode).num_inputBytes hlen (selectionField_end layout mode)
  obtain ⟨hscfsi, hstereo⟩ := parseSideInfo_selection layout mode s.inputBytes
  obtain ⟨h0, h9, h16, h24, h25⟩ := (parseSideInfo layout mode s.inputBytes).si0_fields
  exact ⟨h0.trans hmain, h9, h16.trans (hscfsi.trans hsel), h24.trans hstereo, h25⟩

/-! ## The parametric completion (10_state.md R45) -/

/-- The completion of a legal command that succeeds, for any parameters. -/
theorem State.complete_of_ok {p : Params} {s : State} {i : Instr} {r : Result} (hd : decode s.lcmd = .ok i)
    (h : runInstr p s.inputLength s.inputBytes i = .ok r) : s.complete p = s.completeOk r := by
  rw [State.complete, runCommand, hd]
  simp only [h]

end Sys2Proof.Machine

namespace Sys2Proof.Claims

open Sys2Proof.Machine

/-- Settles O36: the selection under DOC. -/
theorem sideInfoDecoded : Obligations.SideInfoDecoded := by
  intro s mode h
  refine ⟨(parseSideInfo mhrp.siLayout mode s.inputBytes).si0, exec_parseSi_of_length h, ?_⟩
  simp only [fld_eq_slice, Nat.zero_le, Nat.reduceLeDiff, le_refl]
  obtain ⟨h0, h9, h16, h24, h25⟩ := parseSideInfo_si0 mhrp.siLayout h
  exact ⟨h0, h9, h16.trans (field_selectionField_doc s mode), h24, h25⟩

/-- Settles O38: the selection under ISO, in the completion for any parameters with that layout. -/
theorem sideInfoIsoLayout : Obligations.SideInfoIsoLayout := by
  intro p s mode hp hd h
  refine ⟨(parseSideInfo p.siLayout mode s.inputBytes).si0, State.complete_of_ok hd (runParseSi_of_length p s.inputBytes h), ?_⟩
  simp only [fld_eq_slice, Nat.zero_le, Nat.reduceLeDiff, le_refl]
  obtain ⟨h0, h9, h16, h24, h25⟩ := parseSideInfo_si0 p.siLayout h
  exact ⟨h0, h9, h16.trans (by rw [hp, field_selectionField_iso]), h24, h25⟩

end Sys2Proof.Claims

/-! PROOFS. PARSE_CH: the two layouts, the failures, and the bits that are never read (44_channel.md R210 to R221). -/

namespace Sys2Proof.Machine

open Sys2Proof.Claims

/-! ## The fields of an 8-byte window -/

theorem windowSwitching_inputBytes {s : State} (hlen : s.ilen = 8#6) : bits s.inputBytes 33 1 = field s 33 1 := by
  have hn : s.inputLength = 8 := congrArg BitVec.toNat hlen
  exact chWindowSwitching.num_inputBytes hn (by decide)

theorem windowSwitching_flag {s : State} (hlen : s.ilen = 8#6) (h : field s 33 1 = 1) :
    chWindowSwitching.flag s.inputBytes = true :=
  decide_eq_true ((windowSwitching_inputBytes hlen).trans h)

theorem windowSwitching_no_flag {s : State} (hlen : s.ilen = 8#6) (h : field s 33 1 = 0) :
    chWindowSwitching.flag s.inputBytes = false := by
  rw [Field.flag, windowSwitching_inputBytes hlen, h]
  rfl

/-! ## The parser -/

/-- The channel block of a layout, with every field outside the union as the stream has it. -/
def channelOf (B : List Byte) (layout : ChannelVariant) : Channel where
  part23Length := chPart23Length.val B
  bigValues := chBigValues.val B
  globalGain := chGlobalGain.val B
  scalefacCompress := chScalefacCompress.val B
  preemphasis := chPreemphasis.flag B
  scalefacScale := chScalefacScale.flag B
  count1TableSelect := chCount1Table.flag B
  layout := layout

theorem parseChannel_eq (B : List Byte) : parseChannel B = (parseVariant B).map (channelOf B) := rfl

theorem runParseCh_of_length {s : State} (h : s.ilen = 8#6) :
    runParseCh s.inputLength s.inputBytes = (parseVariant s.inputBytes).map fun x => (channelOf s.inputBytes x).result := by
  have hn : s.inputLength = 8 := congrArg BitVec.toNat h
  rw [runParseCh, if_pos hn, parseChannel_eq]
  cases parseVariant s.inputBytes <;> rfl

/-- A block-type code other than `'00'` is a block type; the mixed bit decides between two for code `'10'` only
(44_channel.md R217, R218). -/
theorem blockTypeDecode_of_ne {n : Nat} (hn : n < 4) (hne : n ≠ 0) (mixed : Bool) :
    ∃ b, blockTypeDecode n mixed = .ok b ∧ blockTypeCode b = blockTypeOf n mixed.toNat := by
  interval_cases n
  · exact absurd rfl hne
  · exact ⟨.start, rfl, rfl⟩
  · cases mixed
    · exact ⟨.short, rfl, rfl⟩
    · exact ⟨.mixed, rfl, rfl⟩
  · exact ⟨.endBlock, rfl, rfl⟩

/-- The mixed bit is not read unless the code is `'10'`. -/
theorem blockTypeDecode_mixed_unread {n : Nat} (h : n ≠ 2) (mixed mixed' : Bool) :
    blockTypeDecode n mixed = blockTypeDecode n mixed' := by
  unfold blockTypeDecode
  split
  · rfl
  · exact absurd rfl h
  · rfl
  · rfl

/-- The Normal layout of the window. -/
def normalOf (B : List Byte) : ChannelVariant :=
  .normal (chTable0.val B) (chTable1.val B) (chTable2.val B) (chRegion0.val B) (chRegion1.val B)

/-- The WindowSwitched layout of the window, with a block type. -/
def windowSwitchedOf (B : List Byte) (b : BlockType) : ChannelVariant :=
  .windowSwitched b (chSwitchedTable0.val B) (chSwitchedTable1.val B) (chGain0.val B) (chGain1.val B) (chGain2.val B)

theorem parseVariant_normal {B : List Byte} (h : chWindowSwitching.flag B = false) : parseVariant B = .ok (normalOf B) := by
  rw [parseVariant, h]
  rfl

theorem parseVariant_windowSwitched {B : List Byte} (h : chWindowSwitching.flag B = true) :
    parseVariant B = (blockTypeDecode (chBlockType.num B) (chMixed.flag B)).map (windowSwitchedOf B) := by
  rw [parseVariant, h]
  rfl

/-! ## The registers -/

/-- CH0, and CH1 beside the union's tag, for either layout. -/
theorem channelOf_fields {s : State} (hlen : s.ilen = 8#6) (x : ChannelVariant) :
    let c := channelOf s.inputBytes x
    slice c.ch0 11 0 = field s 0 12 ∧ slice c.ch0 20 12 = field s 12 9 ∧ slice c.ch0 28 21 = field s 21 8 ∧
      slice c.ch0 31 29 = 0 ∧ slice c.ch1 3 0 = field s 29 4 ∧ slice c.ch1 4 4 = field s 56 1 ∧
      slice c.ch1 5 5 = field s 57 1 ∧ slice c.ch1 6 6 = field s 58 1 ∧ slice c.ch1 7 7 = x.tag ∧ slice c.ch1 31 8 = 0 := by
  have hn : s.inputLength = 8 := congrArg BitVec.toNat hlen
  obtain ⟨hlength, hbig, hgain, h0r⟩ := (channelOf s.inputBytes x).ch0_fields
  obtain ⟨hcompress, hpre, hscale, hcount, htag, h1r⟩ := (channelOf s.inputBytes x).ch1_fields
  exact ⟨hlength.trans (chPart23Length.val_inputBytes hn (by decide)),
    hbig.trans (chBigValues.val_inputBytes hn (by decide)),
    hgain.trans (chGlobalGain.val_inputBytes hn (by decide)), h0r,
    hcompress.trans (chScalefacCompress.val_inputBytes hn (by decide)),
    hpre.trans (chPreemphasis.flag_inputBytes hn (by decide) rfl),
    hscale.trans (chScalefacScale.flag_inputBytes hn (by decide) rfl),
    hcount.trans (chCount1Table.flag_inputBytes hn (by decide) rfl), htag, h1r⟩

theorem normalOf_ch2_fields {s : State} (hlen : s.ilen = 8#6) :
    let w := (normalOf s.inputBytes).ch2
    slice w 4 0 = field s 34 5 ∧ slice w 9 5 = field s 39 5 ∧ slice w 14 10 = field s 44 5 ∧ slice w 18 15 = field s 49 4 ∧
      slice w 21 19 = field s 53 3 ∧ slice w 31 22 = 0 := by
  have hn : s.inputLength = 8 := congrArg BitVec.toNat hlen
  obtain ⟨h0, h1, h2, h3, h4, hr⟩ := ChannelVariant.ch2_fields (chTable0.val s.inputBytes) (chTable1.val s.inputBytes)
    (chTable2.val s.inputBytes) (chRegion0.val s.inputBytes) (chRegion1.val s.inputBytes)
  exact ⟨h0.trans (chTable0.val_inputBytes hn (by decide)),
    h1.trans (chTable1.val_inputBytes hn (by decide)),
    h2.trans (chTable2.val_inputBytes hn (by decide)),
    h3.trans (chRegion0.val_inputBytes hn (by decide)),
    h4.trans (chRegion1.val_inputBytes hn (by decide)), hr⟩

theorem windowSwitchedOf_ch3_fields {s : State} (hlen : s.ilen = 8#6) (b : BlockType) :
    let w := (windowSwitchedOf s.inputBytes b).ch3
    slice w 1 0 = blockTypeCode b ∧ slice w 6 2 = field s 37 5 ∧ slice w 11 7 = field s 42 5 ∧ slice w 14 12 = field s 47 3 ∧
      slice w 17 15 = field s 50 3 ∧ slice w 20 18 = field s 53 3 ∧ slice w 31 21 = 0 := by
  have hn : s.inputLength = 8 := congrArg BitVec.toNat hlen
  obtain ⟨hb, h0, h1, h2, h3, h4, hr⟩ := ChannelVariant.ch3_fields b (chSwitchedTable0.val s.inputBytes)
    (chSwitchedTable1.val s.inputBytes) (chGain0.val s.inputBytes) (chGain1.val s.inputBytes) (chGain2.val s.inputBytes)
  exact ⟨hb, h0.trans (chSwitchedTable0.val_inputBytes hn (by decide)),
    h1.trans (chSwitchedTable1.val_inputBytes hn (by decide)),
    h2.trans (chGain0.val_inputBytes hn (by decide)),
    h3.trans (chGain1.val_inputBytes hn (by decide)),
    h4.trans (chGain2.val_inputBytes hn (by decide)), hr⟩

/-- The block type of a window-switched block whose code is not `'00'`. -/
theorem parseVariant_of_code {s : State} (hlen : s.ilen = 8#6) (hwsf : field s 33 1 = 1) (hcode : field s 34 2 ≠ 0) :
    ∃ b, parseVariant s.inputBytes = .ok (windowSwitchedOf s.inputBytes b) ∧
      blockTypeCode b = blockTypeOf (field s 34 2) (field s 36 1) := by
  have hn : s.inputLength = 8 := congrArg BitVec.toNat hlen
  have hnum : chBlockType.num s.inputBytes = field s 34 2 := chBlockType.num_inputBytes hn (by decide)
  have hmixed : (chMixed.flag s.inputBytes).toNat = field s 36 1 := chMixed.flag_inputBytes hn (by decide) rfl
  have hlt : field s 34 2 < 4 := hnum ▸ chBlockType.num_lt s.inputBytes
  obtain ⟨b, hb, hbcode⟩ := blockTypeDecode_of_ne hlt hcode (chMixed.flag s.inputBytes)
  refine ⟨b, ?_, hmixed ▸ hbcode⟩
  rw [parseVariant_windowSwitched (windowSwitching_flag hlen hwsf), hnum, hb]
  rfl

/-! ## The bits that are never read (44_channel.md R213, R218) -/

/-- Two windows agree in every bit a parser can read, the mixed bit left out where its code does not call for it. -/
def AgreeOnReadBits (B B' : List Byte) : Prop :=
  ∀ k, k < 59 → streamBit B k = streamBit B' k ∨ k = 36 ∧ chWindowSwitching.flag B = true ∧ chBlockType.num B ≠ 2

/-- The fields outside the union, its tag, and those of the WindowSwitched layout beside the mixed bit. -/
def fieldsBesideMixed : List Field :=
  [chPart23Length, chBigValues, chGlobalGain, chScalefacCompress, chWindowSwitching, chBlockType, chSwitchedTable0,
    chSwitchedTable1, chGain0, chGain1, chGain2, chPreemphasis, chScalefacScale, chCount1Table]

theorem fieldsBesideMixed_miss : ∀ f ∈ fieldsBesideMixed, f.offset + f.width ≤ 36 ∨ 36 < f.offset ∧ f.offset + f.width ≤ 59 := by
  decide

theorem fieldBesideMixed_congr {B B' : List Byte} (h : AgreeOnReadBits B B') :
    ∀ f ∈ fieldsBesideMixed, f.num B = f.num B' ∧ f.val B = f.val B' ∧ f.flag B = f.flag B' := by
  intro f hf
  have hmiss := fieldsBesideMixed_miss f hf
  refine Field.congr fun j hj => (h (f.offset + j) (by omega)).resolve_right fun hk => ?_
  omega

/-- A field that ends before the bits no step reads is the same when the mixed bit is too. -/
theorem field_congr_of_mixed_read {B B' : List Byte} (h : AgreeOnReadBits B B')
    (hread : ¬ (chWindowSwitching.flag B = true ∧ chBlockType.num B ≠ 2)) {f : Field} (hf : f.offset + f.width ≤ 59) :
    f.num B = f.num B' ∧ f.val B = f.val B' ∧ f.flag B = f.flag B' :=
  Field.congr fun j hj => (h (f.offset + j) (by omega)).resolve_right fun hk => hread hk.2

theorem channelOf_congr {B B' : List Byte} (h : AgreeOnReadBits B B') : channelOf B = channelOf B' := by
  have hfields := fieldBesideMixed_congr h
  simp only [fieldsBesideMixed, List.forall_mem_cons] at hfields
  funext x
  simp only [channelOf, hfields]

theorem windowSwitchedOf_congr {B B' : List Byte} (h : AgreeOnReadBits B B') : windowSwitchedOf B = windowSwitchedOf B' := by
  have hfields := fieldBesideMixed_congr h
  simp only [fieldsBesideMixed, List.forall_mem_cons] at hfields
  funext b
  simp only [windowSwitchedOf, hfields]

/-- The layout of two windows that agree on the bits read is the same. -/
theorem parseVariant_congr {B B' : List Byte} (h : AgreeOnReadBits B B') : parseVariant B = parseVariant B' := by
  have hflag := (fieldBesideMixed_congr h chWindowSwitching (by decide)).2.2
  have hcode := (fieldBesideMixed_congr h chBlockType (by decide)).1
  by_cases hu : chWindowSwitching.flag B = true ∧ chBlockType.num B ≠ 2
  case pos =>
    rw [parseVariant_windowSwitched hu.1, parseVariant_windowSwitched (hflag ▸ hu.1), ← hcode, windowSwitchedOf_congr h,
      blockTypeDecode_mixed_unread hu.2]
  have sameVal {f : Field} (hf : f.offset + f.width ≤ 59) : f.val B = f.val B' := (field_congr_of_mixed_read h hu hf).2.1
  have sameMixed : chMixed.flag B = chMixed.flag B' := (field_congr_of_mixed_read h hu (by decide)).2.2
  cases hwsf : chWindowSwitching.flag B with
  | false =>
    rw [parseVariant_normal hwsf, parseVariant_normal (hflag ▸ hwsf), normalOf, normalOf, sameVal (f := chTable0) (by decide),
      sameVal (f := chTable1) (by decide), sameVal (f := chTable2) (by decide), sameVal (f := chRegion0) (by decide),
      sameVal (f := chRegion1) (by decide)]
  | true =>
    rw [parseVariant_windowSwitched hwsf, parseVariant_windowSwitched (hflag ▸ hwsf), ← hcode, windowSwitchedOf_congr h,
      sameMixed]

/-- PARSE_CH's outcome on an 8-byte window is fixed by the bits read. -/
theorem runParseCh_congr {n : Nat} {B B' : List Byte} (h : n = 8 → AgreeOnReadBits B B') :
    runParseCh n B = runParseCh n B' := by
  unfold runParseCh
  split
  case isTrue hn => rw [parseChannel_eq, parseChannel_eq, parseVariant_congr (h hn), channelOf_congr (h hn)]
  case isFalse => rfl

end Sys2Proof.Machine

namespace Sys2Proof.Claims

open Sys2Proof.Machine

/-- Settles O39: the flag selects the Normal layout. -/
theorem channelNormal : Obligations.ChannelNormal := by
  intro s hlen hwsf
  have hrun : runInstr mhrp s.inputLength s.inputBytes .parseCh =
      .ok (channelOf s.inputBytes (normalOf s.inputBytes)).result := by
    rw [runInstr, runParseCh_of_length hlen, parseVariant_normal (windowSwitching_no_flag hlen hwsf)]
    rfl
  refine ⟨(channelOf s.inputBytes (normalOf s.inputBytes)).ch0, (channelOf s.inputBytes (normalOf s.inputBytes)).ch1,
    (normalOf s.inputBytes).ch2, exec_of_ok hrun, ?_⟩
  simp only [fld_eq_slice, Nat.zero_le, Nat.reduceLeDiff, le_refl]
  obtain ⟨h0a, h0b, h0c, h0r, h1a, h1b, h1c, h1d, h1t, h1r⟩ := channelOf_fields hlen (normalOf s.inputBytes)
  exact ⟨h0a, h0b, h0c, h0r, h1a, h1b, h1c, h1d, h1t, h1r, normalOf_ch2_fields hlen⟩

/-- Settles O40: the flag selects the WindowSwitched layout, and the code a block type. -/
theorem channelWindowSwitched : Obligations.ChannelWindowSwitched := by
  intro s hlen hwsf hcode
  obtain ⟨b, hvariant, hb⟩ := parseVariant_of_code hlen hwsf hcode
  have hrun : runInstr mhrp s.inputLength s.inputBytes .parseCh =
      .ok (channelOf s.inputBytes (windowSwitchedOf s.inputBytes b)).result := by
    rw [runInstr, runParseCh_of_length hlen, hvariant]
    rfl
  refine ⟨(channelOf s.inputBytes (windowSwitchedOf s.inputBytes b)).ch0,
    (channelOf s.inputBytes (windowSwitchedOf s.inputBytes b)).ch1, (windowSwitchedOf s.inputBytes b).ch3, exec_of_ok hrun, ?_⟩
  simp only [fld_eq_slice, Nat.zero_le, Nat.reduceLeDiff, le_refl]
  obtain ⟨h0a, h0b, h0c, h0r, h1a, h1b, h1c, h1d, h1t, h1r⟩ := channelOf_fields hlen (windowSwitchedOf s.inputBytes b)
  obtain ⟨h3b, h3⟩ := windowSwitchedOf_ch3_fields hlen b
  exact ⟨h0a, h0b, h0c, h0r, h1a, h1b, h1c, h1d, h1t, h1r, h3b.trans hb, h3⟩

/-- Settles O41: the length is PARSE_CH's precondition, and code `'00'` is no block type. -/
theorem channelFailures : Obligations.ChannelFailures := by
  refine ⟨fun s hlen => ?_, fun s hlen hwsf hcode => ?_⟩
  · have hbroken : contractBroken s .parseCh := fun h => hlen (BitVec.eq_of_toNat_eq h)
    exact exec_of_error (i := .parseCh) (runInstr_contractBroken mhrp s.inputBytes hbroken)
  · have hn : s.inputLength = 8 := congrArg BitVec.toNat hlen
    have hnum : chBlockType.num s.inputBytes = 0 := (chBlockType.num_inputBytes hn (by decide)).trans hcode
    have hrun : runInstr mhrp s.inputLength s.inputBytes .parseCh = .error .invalidBlockType := by
      rw [runInstr, runParseCh_of_length hlen,
        parseVariant_windowSwitched (windowSwitching_flag hlen hwsf), hnum]
      rfl
    exact exec_of_error hrun

/-- Settles O42: the bits in question are not read, so the outcome is the same, and with it what the completion reports. -/
theorem channelIgnoredBits : Obligations.ChannelIgnoredBits := by
  intro s t s' t' hilen hbits hs ht
  have hlen : s.inputLength = t.inputLength := congrArg BitVec.toNat hilen
  have hout : runInstr mhrp s.inputLength s.inputBytes .parseCh = runInstr mhrp t.inputLength t.inputBytes .parseCh := by
    rw [← hlen]
    refine runParseCh_congr fun height k hk => ?_
    have hilen8 : s.ilen = 8#6 := BitVec.eq_of_toNat_eq height
    have hcode : chBlockType.num s.inputBytes = field s 34 2 := chBlockType.num_inputBytes height (by decide)
    rcases hbits k hk with ⟨hk36, h33, h34⟩ | hbit
    · exact .inr ⟨hk36, windowSwitching_flag hilen8 h33, hcode ▸ h34⟩
    · exact .inl ((s.streamBit_inputBytes (by omega)).trans (hbit.trans (t.streamBit_inputBytes (by omega)).symm))
  exact exec_reports_congr (i := .parseCh) hout hs ht

end Sys2Proof.Claims

/-! PROOFS. The completion of a command: its failures, its frame, and what its outcome depends on (10_state.md R45,
20_memory.md R68, 60_exceptions.md R250). -/

namespace Sys2Proof.Machine

open Sys2Proof.Claims

/-! ## Which failure a lookup and a step of a parser have (60_exceptions.md R250) -/

theorem entryOr_error {e e' : Failure} {x : Option Nat} (h : entryOr e x = .error e') : e' = e := by
  cases x with
  | none => exact (Except.error.inj h).symm
  | some n => cases h

theorem brLookup_error {p : Params} {l : Layer} {i : Nat} {e : Failure} (h : brLookup p l i = .error e) :
    e = .invalidBitrate := by
  unfold brLookup at h
  split at h
  · exact (Except.error.inj h).symm
  · split at h
    · split at h
      · exact (Except.error.inj h).symm
      · cases h
    · exact entryOr_error h

theorem layerDecode_error {n : Nat} {e : Failure} (h : layerDecode n = .error e) : e = .unsupportedLayer := by
  unfold layerDecode at h
  split at h
  · cases h
  · cases h
  · cases h
  · exact (Except.error.inj h).symm

theorem versionDecode_error {n : Nat} {e : Failure} (h : versionDecode n = .error e) : e = .unsupportedVersion := by
  unfold versionDecode at h
  split at h
  · cases h
  · cases h
  · cases h
  · exact (Except.error.inj h).symm

theorem syncCheck_error {B : List Byte} {e : Failure} (h : syncCheck B = .error e) : e = .syncNotFound := by
  unfold syncCheck at h
  split at h
  · cases h
  · exact (Except.error.inj h).symm

theorem blockTypeDecode_error {n : Nat} {mixed : Bool} {e : Failure} (h : blockTypeDecode n mixed = .error e) :
    e = .invalidBlockType := by
  unfold blockTypeDecode at h
  split at h
  · cases h
  · cases h
  · cases h
  · exact (Except.error.inj h).symm

theorem parseFrameHeader_error {p : Params} {B : List Byte} {e : Failure} (h : parseFrameHeader p B = .error e) :
    e ∈ [Failure.syncNotFound, .unsupportedVersion, .unsupportedLayer, .invalidBitrate, .invalidSamplingRate] := by
  rw [parseFrameHeader_steps] at h
  simp only [bind_eq_error_iff] at h
  rcases h with h | ⟨_, -, h | ⟨_, -, h | ⟨_, -, h | ⟨_, -, h | ⟨_, -, h | ⟨_, -, h⟩⟩⟩⟩⟩⟩
  · simp [syncCheck_error h]
  · simp [versionDecode_error h]
  · simp [layerDecode_error h]
  · simp [brLookup_error h]
  · simp [entryOr_error h]
  · simp [entryOr_error h]
  · cases h

theorem parseVariant_error {B : List Byte} {e : Failure} (h : parseVariant B = .error e) : e = .invalidBlockType := by
  cases hwsf : chWindowSwitching.flag B with
  | false => cases (parseVariant_normal hwsf).symm.trans h
  | true =>
    rw [parseVariant_windowSwitched hwsf] at h
    exact blockTypeDecode_error (map_eq_error_iff.mp h)

/-! ## Which failure a command has (60_exceptions.md R250) -/

/-- The failures each command may complete with. -/
def possibleFailures : Instr → List Failure
  | .extract _ _ => [.contractViolation]
  | .parseHdr =>
    [.syncNotFound, .unsupportedVersion, .unsupportedLayer, .invalidBitrate, .invalidSamplingRate, .contractViolation]
  | .parseSi _ => [.contractViolation]
  | .parseCh => [.invalidBlockType, .contractViolation]
  | .lutBitrate _ _ => [.unsupportedLayer, .invalidBitrate]
  | .lutSrate _ => [.invalidSamplingRate]
  | .lutFsize _ _ => [.invalidBitrate]

theorem runInstr_error {p : Params} {n : Nat} {B : List Byte} {i : Instr} {e : Failure} (h : runInstr p n B i = .error e) :
    e ∈ possibleFailures i := by
  cases i with
  | extract o w =>
    simp only [runInstr, runExtract] at h
    split at h
    · simp [possibleFailures, ← Except.error.inj h]
    · cases h
  | parseHdr =>
    simp only [runInstr, runParseHdr] at h
    split at h
    · have hmem := parseFrameHeader_error (map_eq_error_iff.mp h)
      simp only [possibleFailures, List.mem_cons] at hmem ⊢
      tauto
    · simp [possibleFailures, ← Except.error.inj h]
  | parseSi mode =>
    simp only [runInstr, runParseSi] at h
    split at h
    · cases h
    · simp [possibleFailures, ← Except.error.inj h]
  | parseCh =>
    simp only [runInstr, runParseCh] at h
    split at h
    · rw [map_eq_error_iff, parseChannel_eq, map_eq_error_iff] at h
      simp [possibleFailures, parseVariant_error h]
    · simp [possibleFailures, ← Except.error.inj h]
  | lutBitrate index layer =>
    simp only [runInstr, runLutBitrate] at h
    split at h
    · rename_i hl
      simp [possibleFailures, ← Except.error.inj h, layerDecode_error hl]
    · simp [possibleFailures, brLookup_error (map_eq_error_iff.mp h)]
  | lutSrate index => simp [possibleFailures, entryOr_error (map_eq_error_iff.mp h)]
  | lutFsize kbps hz => simp [possibleFailures, entryOr_error (map_eq_error_iff.mp h)]

/-- A legal command never reports code 9 (30_encoding.md R90). -/
theorem runInstr_error_ne_illegal {p : Params} {n : Nat} {B : List Byte} {i : Instr} {e : Failure}
    (h : runInstr p n B i = .error e) : e ≠ .illegalCommand := by
  rintro rfl
  have hmem := runInstr_error h
  cases i <;> simp [possibleFailures] at hmem

/-! ## The frame and the input of a completion -/

theorem State.SameBesideResults.inputKept {s t : State} (h : s.SameBesideResults t) : InputKept s t :=
  ⟨h.lcmd, h.ilen, h.overrun, fun a => congrArg (Memory.read · a) h.ibuf, h.hostProg, h.turns, h.trace, h.draws⟩

theorem exec_sameBesideResults {i : Instr} {s t : State} (h : exec i s = .next t) : s.SameBesideResults t := by
  rcases exec_cases i s with ⟨r, -, -, hexec⟩ | ⟨e, -, hexec⟩
  · obtain rfl := Host.Outcome.next.inj (hexec.symm.trans h)
    exact (State.completeOk_spec s r).1
  · obtain rfl := Host.Outcome.next.inj (hexec.symm.trans h)
    exact (State.completeFail_spec s (groupOf i) e).1

theorem exec_groupKept {i : Instr} {s t : State} (h : exec i s = .next t) {g : Group} (hg : groupOf i ≠ g) : GroupKept g s t := by
  obtain ⟨t', hexec, hother, -⟩ := exec_groups i s
  obtain rfl := Host.Outcome.next.inj (hexec.symm.trans h)
  exact hother g (Ne.symm hg)

theorem runCommand_of_ok {p : Params} {w : Word} {i : Instr} (hd : decode w = .ok i) (n : Nat) (B : List Byte) :
    runCommand p w n B = runInstr p n B i := by
  rw [runCommand, hd]

theorem runCommand_of_error {p : Params} {w : Word} {d : DecodeError} (hd : decode w = .error d) (n : Nat) (B : List Byte) :
    runCommand p w n B = .error .illegalCommand := by
  rw [runCommand, hd]

theorem engineStep_of_ok {s : State} {i : Instr} (hb : s.busy = true) (hd : decode s.lcmd = .ok i) :
    engineStep s = exec i s := by
  rw [engineStep, if_pos hb, hd]

/-- The inversion of an engine turn that answers a next state. -/
theorem engineStep_next {s t : State} (h : engineStep s = .next t) : EngineEffect s t := by
  obtain ⟨t', hstep, heffect⟩ := engineStep_effect s
  obtain rfl := Host.Outcome.next.inj (hstep.symm.trans h)
  exact heffect

/-- The engine's step is the completion at MHRP's parameters (10_state.md R45). -/
theorem engineStep_eq_complete {s : State} (hb : s.busy = true) : engineStep s = .next (s.complete mhrp) := by
  cases hd : decode s.lcmd with
  | error d =>
    rw [engineStep_illegal hb hd, State.complete, runCommand_of_error hd, hd]
    rfl
  | ok i =>
    rw [engineStep_of_ok hb hd, State.complete, runCommand_of_ok hd, hd, exec_eq_finish]
    cases runInstr mhrp s.inputLength s.inputBytes i <;> rfl

/-- A LUT command reads neither ILEN nor IBUF (41_tables.md R127 to R129). -/
theorem runInstr_lut_congr (p : Params) {i : Instr} (hi : groupOf i = .lut) (n n' : Nat) (B B' : List Byte) :
    runInstr p n B i = runInstr p n' B' i := by
  cases i with
  | lutBitrate index layer => rfl
  | lutSrate index => rfl
  | lutFsize kbps hz => rfl
  | _ => cases hi

end Sys2Proof.Machine

namespace Sys2Proof.Claims

open Sys2Proof.Machine

/-- Settles O23: a completion succeeds without a code, or has the code of one of the command's failures. -/
theorem failureCodes : Obligations.FailureCodes := by
  refine ⟨⟨rfl, rfl, rfl, rfl, rfl, rfl, rfl, rfl⟩, fun i s t h => ?_⟩
  rcases exec_cases i s with ⟨r, -, -, hexec⟩ | ⟨e, hrun, hexec⟩
  · obtain rfl := Host.Outcome.next.inj (hexec.symm.trans h)
    obtain ⟨-, -, -, herr, hcode, -⟩ := State.completeOk_spec s r
    exact .inl ⟨herr, hcode⟩
  · obtain rfl := Host.Outcome.next.inj (hexec.symm.trans h)
    obtain ⟨-, -, -, herr, hcode, -⟩ := State.completeFail_spec s (groupOf i) e
    have hmem := List.mem_map_of_mem (f := Failure.code) (runInstr_error hrun)
    rw [hcode]
    exact .inr ⟨herr, by cases i <;> simpa [possibleFailures, Failure.code] using hmem⟩

/-- Settles O21: a completion leaves everything beside STATUS and the results alone, and each other group. -/
theorem commandFrame : Obligations.CommandFrame := by
  intro i s t h
  refine ⟨(exec_sameBesideResults h).inputKept, fun hg => ?_, fun hg => ?_, fun hg => ?_, fun hg => ?_, fun hg => ?_⟩
  all_goals obtain ⟨hres, hval⟩ := exec_groupKept h hg
  · exact ⟨Result.ext.inj hres, hval⟩
  · exact ⟨Result.lut.inj hres, hval⟩
  · obtain ⟨h0, h1, h2⟩ := Result.hdr.inj hres
    exact ⟨h0, h1, h2, hval⟩
  · exact ⟨Result.si.inj hres, hval⟩
  · obtain ⟨h0, h1, h2, h3⟩ := Result.ch.inj hres
    exact ⟨h0, h1, h2, h3, hval⟩

/-- Settles O19: the three ways a busy engine's turn can end. -/
theorem engineCompletesAsRunSays : Obligations.EngineCompletesAsRunSays := by
  intro s hb
  refine ⟨engineStep_eq_complete hb, ?_⟩
  obtain ⟨t, hstep, heffect⟩ := engineStep_effect s
  refine ⟨t, hstep, ?_⟩
  cases heffect with
  | idle hidle => cases hb.symm.trans hidle
  | ok i r _ hd hrun hgroup =>
    obtain ⟨hsame, hbusy, hdone, herr, hcode, hres, hval, hother⟩ := State.completeOk_spec s r
    rw [runCommand_of_ok hd, hrun]
    exact ⟨hbusy, hdone, hsame.inputKept, herr, hcode, hres, hval, hother⟩
  | failed i e _ hd hrun =>
    obtain ⟨hsame, hbusy, hdone, herr, hcode, hres, hval, hother⟩ := State.completeFail_spec s (groupOf i) e
    rw [runCommand_of_ok hd, hrun]
    refine ⟨hbusy, hdone, hsame.inputKept, herr, hcode, fun j hj => ?_, fun d hd' => by cases hd.symm.trans hd'⟩
    obtain rfl := Except.ok.inj (hd.symm.trans hj)
    exact ⟨runInstr_error_ne_illegal hrun, hres, hval, hother⟩
  | illegal d _ hd =>
    rw [runCommand_of_error hd]
    exact ⟨rfl, rfl, ⟨rfl, rfl, rfl, fun _ => rfl, rfl, rfl, rfl, rfl⟩, rfl, rfl, fun i hi => (by cases hd.symm.trans hi),
      fun _ _ => ⟨rfl, s.completeIllegal_groupKept⟩⟩

/-- Settles O22: equal inputs, or a LUT command, make equal outcomes, and with them equal reports. -/
theorem outcomeDependsOnInputAlone : Obligations.OutcomeDependsOnInputAlone := by
  intro s t s' t' hbs hbt hlcmd hinput hs ht
  cases hd : decode s.lcmd with
  | error d =>
    rw [engineStep_illegal hbs hd] at hs
    rw [engineStep_illegal hbt (hlcmd ▸ hd)] at ht
    obtain rfl := Host.Outcome.next.inj hs
    obtain rfl := Host.Outcome.next.inj ht
    exact ⟨rfl, rfl, rfl, rfl, nofun⟩
  | ok i =>
    have hrun : runInstr mhrp s.inputLength s.inputBytes i = runInstr mhrp t.inputLength t.inputBytes i := by
      rcases hinput with ⟨hilen, hbytes⟩ | ⟨j, hj, hlut⟩
      · rw [State.inputBytes_congr hilen hbytes, State.inputLength, State.inputLength, hilen]
      · obtain rfl := Except.ok.inj (hd.symm.trans hj)
        exact runInstr_lut_congr mhrp hlut _ _ _ _
    have hes := engineStep_of_ok hbs hd
    have het := engineStep_of_ok hbt (hlcmd ▸ hd)
    obtain ⟨herr, hcode, hres, hval⟩ := exec_reports_congr hrun (hes.symm.trans hs) (het.symm.trans ht)
    obtain ⟨hbusy, hdone, -⟩ := (engineStep_next hs).outcome hbs
    obtain ⟨hbusy', hdone', -⟩ := (engineStep_next ht).outcome hbt
    refine ⟨herr, hcode, hbusy.trans hbusy'.symm, hdone.trans hdone'.symm, fun j hj => ?_⟩
    obtain rfl := Except.ok.inj hj
    exact ⟨hres, hval⟩

end Sys2Proof.Claims

/-! PROOFS. The invariant of STATUS, the result groups and IBUF (10_state.md R28, R30, R50; 44_channel.md R219). -/

namespace Sys2Proof.Machine

open Sys2Proof.Claims

/-! ## A command writes a sound result (10_state.md R31 to R40, R50) -/

theorem runExtract_ok {o w n : Nat} {B : List Byte} {r : Result} (h : runExtract o w n B = .ok r) :
    w ≤ 16 ∧ r = .ext (pack [(0, bits B o w)]) := by
  unfold runExtract at h
  split at h
  · cases h
  · rename_i hgood
    simp only [extractorMisused, Bool.or_eq_true, decide_eq_true_eq, not_or, Nat.not_lt] at hgood
    obtain ⟨-, ⟨-, hw⟩, -⟩ := hgood
    exact ⟨hw, (Except.ok.inj h).symm⟩

theorem lutrOf_sound (v : Nat) : (lutrOf v).Sound := slice_pack_16 (Nat.mod_lt v (by decide))

/-- A header whose rates and size are those of the table, with a layer that is decoded, is sound. -/
theorem FrameHeader.result_sound {h : FrameHeader} (hl : layerCode h.layer ≠ 0)
    (hs : fsLookup mhrp h.bitrateKbps h.samplingRateHz = .ok h.frameSizeBytes) : h.result.Sound := by
  have hsize : frameSizeOf h.bitrateKbps h.samplingRateHz = some h.frameSizeBytes := by
    rw [fsLookup_eq_frameSizeOf] at hs
    cases hf : frameSizeOf h.bitrateKbps h.samplingRateHz with
    | none => rw [hf] at hs; cases hs
    | some n => rw [hf] at hs; exact congrArg some (Except.ok.inj hs)
  obtain ⟨hk, hz⟩ := frameSizeOf_keys_lt hsize
  obtain ⟨h0v, h0l, -, -, -, -, -, -, -, -, h0r⟩ := h.hdr0_fields
  obtain ⟨h1z, h1k, h1r⟩ := h.hdr1_fields hz hk
  obtain ⟨h2n, -, h2r⟩ := h.hdr2_fields ((frameSizeOf_le hsize).trans_lt (by decide))
  refine ⟨h0r, h1r, h2r, ?_, h0l ▸ hl, ?_⟩
  · have := versionCode_lt h.version
    omega
  · rw [h1z, h1k, h2n, hs]

/-- Side information under DOC is sound: four bits of selection for one channel, six for two. -/
theorem SideInfo.result_sound (mode : ChannelMode) (B : List Byte) :
    (Result.si (parseSideInfo .doc mode B).si0).Sound := by
  obtain ⟨-, h9, h16, h24, h25⟩ := (parseSideInfo .doc mode B).si0_fields
  obtain ⟨hscfsi, hstereo⟩ := parseSideInfo_selection .doc mode B
  have hlt := (selectionField .doc mode).num_lt B
  have hwidth : (selectionField .doc mode).width ≤ 6 ∧ (mode = .singleChannel → (selectionField .doc mode).width = 4) := by
    cases mode <;> decide
  refine ⟨h9, h25, fun hmono => ?_, ?_⟩
  · have hsingle : mode = .singleChannel := by
      by_contra hne
      rw [h24, hstereo, if_neg hne] at hmono
      cases hmono
    rw [h16, hscfsi]
    rwa [hwidth.2 hsingle] at hlt
  · rw [h16, hscfsi]
    exact hlt.trans_le (Nat.pow_le_pow_right (by decide) hwidth.1)

/-- A channel block is sound: the inactive variant's register is 0. -/
theorem Channel.result_sound (c : Channel) : c.result.Sound := by
  obtain ⟨-, -, -, h0r⟩ := c.ch0_fields
  obtain ⟨-, -, -, -, htag, h1r⟩ := c.ch1_fields
  have hzero : ∀ hi lo, slice 0#32 hi lo = 0 := fun hi lo => by simp [slice]
  cases hlayout : c.layout with
  | normal t0 t1 t2 r0 r1 =>
    obtain ⟨-, -, -, -, -, h2r⟩ := ChannelVariant.ch2_fields t0 t1 t2 r0 r1
    rw [Channel.result, hlayout]
    refine ⟨h0r, h1r, h2r, hzero 31 21, fun _ => rfl, fun hone => ?_⟩
    rw [htag, hlayout] at hone
    cases hone
  | windowSwitched b t0 t1 g0 g1 g2 =>
    obtain ⟨-, -, -, -, -, -, h3r⟩ := ChannelVariant.ch3_fields b t0 t1 g0 g1 g2
    rw [Channel.result, hlayout]
    refine ⟨h0r, h1r, hzero 31 22, h3r, fun hnone => ?_, fun _ => rfl⟩
    rw [htag, hlayout] at hnone
    cases hnone

/-- Every result a command of MHRP can write is sound. -/
theorem runInstr_sound {n : Nat} {B : List Byte} {i : Instr} {r : Result} (h : runInstr mhrp n B i = .ok r) : r.Sound := by
  cases i with
  | extract o w =>
    obtain ⟨hw, rfl⟩ := runExtract_ok h
    exact slice_pack_16 ((bits_lt B o w).trans_le (Nat.pow_le_pow_right (by decide) hw))
  | parseHdr =>
    simp only [runInstr, runParseHdr] at h
    split at h
    · obtain ⟨hdr, hparse, rfl⟩ := map_eq_ok_iff.mp h
      obtain ⟨version, layer, kbps, hz, size, -, -, hl, -, -, hs, rfl⟩ := parseFrameHeader_ok.mp hparse
      exact FrameHeader.result_sound (layerCode_of_layerDecode hl) hs
    · cases h
  | parseSi mode =>
    simp only [runInstr, runParseSi] at h
    split at h
    · obtain rfl := Except.ok.inj h
      exact SideInfo.result_sound mode B
    · cases h
  | parseCh =>
    simp only [runInstr, runParseCh] at h
    split at h
    · obtain ⟨c, -, rfl⟩ := map_eq_ok_iff.mp h
      exact c.result_sound
    · cases h
  | lutBitrate index layer =>
    simp only [runInstr, runLutBitrate] at h
    split at h
    · cases h
    · obtain ⟨v, -, rfl⟩ := map_eq_ok_iff.mp h
      exact lutrOf_sound v
  | lutSrate index =>
    obtain ⟨v, -, rfl⟩ := map_eq_ok_iff.mp h
    exact lutrOf_sound v
  | lutFsize kbps hz =>
    obtain ⟨v, -, rfl⟩ := map_eq_ok_iff.mp h
    exact lutrOf_sound v

/-! ## The invariant under each change of the state -/

/-- After power-on every register is 0 and no group is VALID. -/
theorem State.Inv.resetWith {m : Memory} (h : m.wf = true) : (State.resetWith m).Inv where
  ibufCanonical := h
  busyIsClean := nofun
  errAfterCompletion := nofun
  errHasCode := iff_of_true rfl rfl
  codeIsNamed := nofun
  statusTruthful := nofun
  invalidIsZero g _ := by cases g <;> rfl
  validIsSound g hg := by cases g <;> cases hg

/-- The invariant speaks of IBUF's form, of the report and of the results alone. -/
theorem State.Inv.congr {s t : State} (hI : s.Inv) (hreport : s.SameReport t) (hresults : s.SameResults t)
    (hm : t.ibuf.wf = true) : t.Inv := by
  obtain ⟨hlcmd, hbusy, hdone, herr, hcode⟩ := hreport
  have hstatus : t.statusMatchesCommand = s.statusMatchesCommand := by
    simp only [State.statusMatchesCommand, hlcmd, herr, hcode, (hresults.group _).2]
  exact {
    ibufCanonical := hm
    busyIsClean := by rw [hbusy, hdone, herr, hcode]; exact hI.busyIsClean
    errAfterCompletion := by rw [herr, hdone]; exact hI.errAfterCompletion
    errHasCode := by rw [herr, hcode]; exact hI.errHasCode
    codeIsNamed := by rw [herr, hcode]; exact hI.codeIsNamed
    statusTruthful := by rw [hdone, hstatus]; exact hI.statusTruthful
    invalidIsZero := fun g => by rw [(hresults.group g).1, (hresults.group g).2]; exact hI.invalidIsZero g
    validIsSound := fun g => by rw [(hresults.group g).1, (hresults.group g).2]; exact hI.validIsSound g }

/-- A reset makes the invariant afresh, whatever IBUF draws. -/
theorem State.Inv.resetEvent (s : State) : s.resetEvent.Inv :=
  (State.Inv.resetWith (drawIbuf_wf s.draws)).congr ⟨rfl, rfl, rfl, rfl, rfl⟩
    ⟨rfl, rfl, rfl, rfl, rfl, rfl, rfl, rfl, rfl, rfl, rfl, rfl, rfl, rfl, rfl⟩ (drawIbuf_wf s.draws)

/-- An acceptance ends the report and keeps the results. -/
theorem State.Inv.accept {s : State} (hI : s.Inv) (w : Word) : (s.accept w).Inv where
  ibufCanonical := hI.ibufCanonical
  busyIsClean _ := ⟨rfl, rfl, rfl⟩
  errAfterCompletion := nofun
  errHasCode := iff_of_true rfl rfl
  codeIsNamed := nofun
  statusTruthful := nofun
  invalidIsZero := hI.invalidIsZero
  validIsSound := hI.validIsSound

/-- A bus write keeps the invariant. -/
theorem WriteEffect.inv {s t : State} {off size : Nat} {v : Word} {r : BusResp} (h : WriteEffect s off size v t r) (hI : s.Inv) :
    t.Inv := by
  rcases h.report with ⟨-, -, -, rfl⟩ | hreport
  · exact hI.accept v
  · refine hI.congr hreport h.sameResults ?_
    rcases h.input with ⟨-, -, -, rfl⟩ | ⟨k, -, -, -, rfl⟩ | ⟨-, hibuf⟩
    · exact hI.ibufCanonical
    · exact Memory.wf_writeWord hI.ibufCanonical k.isLt v
    · exact hibuf ▸ hI.ibufCanonical

/-- The agents' data do not matter to the invariant. -/
theorem State.Inv.agents {s : State} (hI : s.Inv) (ops : List HostOp) (ts : List Turn) (rs : List BusResp) :
    State.Inv { s with hostProg := ops, turns := ts, trace := rs } :=
  hI.congr ⟨rfl, rfl, rfl, rfl, rfl⟩ ⟨rfl, rfl, rfl, rfl, rfl, rfl, rfl, rfl, rfl, rfl, rfl, rfl, rfl, rfl, rfl⟩ hI.ibufCanonical

theorem HostEffect.inv {s t : State} (h : HostEffect s t) (hI : s.Inv) : t.Inv := by
  cases h with
  | nothing => exact hI
  | read ops off size => exact hI.agents ops s.turns _
  | write ops off size v t r _ hw => exact (hw.inv (hI.agents ops s.turns s.trace)).agents t.hostProg t.turns _

/-- What a completion does to a group: it keeps it, or writes a sound result, or clears it. -/
def GroupSettled (s t : State) (g : Group) : Prop :=
  GroupKept g s t ∨ t.groupValid g = true ∧ (t.groupResult g).Sound ∨ t.groupValid g = false ∧ t.groupResult g = g.cleared

/-- A completion with a truthful STATUS keeps the invariant. -/
theorem State.Inv.of_completion {s t : State} (hI : s.Inv) (hsame : s.SameBesideResults t) (hbusy : t.busy = false)
    (hdone : t.done = true) (hreport : t.err = false ∧ t.errcode = 0#4 ∨ t.err = true ∧ ∃ e : Failure, t.errcode = e.code)
    (hstatus : t.statusMatchesCommand = true) (hgroups : ∀ g, GroupSettled s t g) : t.Inv where
  ibufCanonical := hsame.ibuf ▸ hI.ibufCanonical
  busyIsClean hb := by cases hb.symm.trans hbusy
  errAfterCompletion _ := hdone
  errHasCode := by
    rcases hreport with ⟨herr, hcode⟩ | ⟨herr, e, hcode⟩
    · exact iff_of_true herr hcode
    · exact iff_of_false (by simp [herr]) (by rw [hcode]; cases e <;> decide)
  codeIsNamed herr := by
    rcases hreport with ⟨hno, -⟩ | ⟨-, hcode⟩
    · cases herr.symm.trans hno
    · exact hcode
  statusTruthful _ := hstatus
  invalidIsZero g hg := by
    rcases hgroups g with ⟨hres, hval⟩ | ⟨hval, -⟩ | ⟨-, hres⟩
    · exact hres.trans (hI.invalidIsZero g (hval ▸ hg))
    · cases hg.symm.trans hval
    · exact hres
  validIsSound g hg := by
    rcases hgroups g with ⟨hres, hval⟩ | ⟨-, hsound⟩ | ⟨hval, -⟩
    · exact hres ▸ hI.validIsSound g (hval ▸ hg)
    · exact hsound
    · cases hg.symm.trans hval

/-- STATUS of a legal command's completion. -/
theorem State.statusMatchesCommand_of_ok {t : State} {i : Instr} (hd : decode t.lcmd = .ok i)
    (hval : t.groupValid (groupOf i) = !t.err) (hcode : t.errcode ≠ Failure.illegalCommand.code) :
    t.statusMatchesCommand = true := by
  simp [State.statusMatchesCommand, hd, hval, hcode]

theorem Failure.code_inj {e e' : Failure} : e.code = e'.code → e = e' := by
  cases e <;> cases e' <;> decide

/-- An engine turn keeps the invariant. -/
theorem EngineEffect.inv {s t : State} (h : EngineEffect s t) (hI : s.Inv) : t.Inv := by
  cases h with
  | idle => exact hI
  | ok i r _ hd hrun hgroup =>
    obtain ⟨hsame, hbusy, hdone, herr, hcode, hres, hval, hother⟩ := State.completeOk_spec s r
    refine hI.of_completion hsame hbusy hdone (.inl ⟨herr, hcode⟩) ?_ fun g => ?_
    · refine State.statusMatchesCommand_of_ok (hsame.lcmd ▸ hd) ?_ (by rw [hcode]; decide)
      rw [← hgroup, hval, herr]
      rfl
    · by_cases hg : g = r.group
      · subst hg
        exact .inr (.inl ⟨hval, hres.symm ▸ runInstr_sound hrun⟩)
      · exact .inl (hother g hg)
  | failed i e _ hd hrun =>
    obtain ⟨hsame, hbusy, hdone, herr, hcode, hres, hval, hother⟩ := State.completeFail_spec s (groupOf i) e
    refine hI.of_completion hsame hbusy hdone (.inr ⟨herr, e, hcode⟩) ?_ fun g => ?_
    · refine State.statusMatchesCommand_of_ok (hsame.lcmd ▸ hd) ?_ fun h => ?_
      · rw [hval, herr]
        rfl
      · exact runInstr_error_ne_illegal hrun (Failure.code_inj (hcode.symm.trans h))
    · by_cases hg : g = groupOf i
      · subst hg
        exact .inr (.inr ⟨hval, hres⟩)
      · exact .inl (hother g hg)
  | illegal d _ hd =>
    refine hI.of_completion ⟨rfl, rfl, rfl, rfl, rfl, rfl, rfl, rfl⟩ rfl rfl (.inr ⟨rfl, .illegalCommand, rfl⟩) ?_
      fun g => .inl (s.completeIllegal_groupKept g)
    have hd' : decode s.completeIllegal.lcmd = .error d := hd
    rw [State.statusMatchesCommand, hd']
    rfl

end Sys2Proof.Machine

namespace Sys2Proof.Claims

open Sys2Proof.Machine

/-- Settles O53: the state after power-on, with IBUF empty or not. -/
theorem invariantAtReset : Obligations.InvariantAtReset :=
  ⟨fun _ h => State.Inv.resetWith h, State.Inv.resetWith rfl⟩

/-- Settles O52: each agent's turn keeps the invariant, and a reset makes it afresh. -/
theorem invariantKeptByEveryStep : Obligations.InvariantKeptByEveryStep := by
  intro s t hI h
  cases step_next h with
  | engine ts t _ heffect => exact heffect.inv (hI.agents s.hostProg ts s.trace)
  | host ts t _ heffect => exact heffect.inv (hI.agents s.hostProg ts s.trace)
  | reset ts => exact State.Inv.resetEvent (s.setTurns ts)

end Sys2Proof.Claims

/-! PROOFS. The register window, the reset and the turns of the agents (10_state.md R22, R23, R28, R43, R51; 20_memory.md R60,
R61; 70_reset_and_hazards.md R280 to R282). -/

namespace Sys2Proof.Machine

open Sys2Proof.Claims

/-! ## The window -/

/-- Every register lies inside the window of 128 bytes (20_memory.md R61). -/
theorem Reg.offset_lt (r : Reg) : r.offset < 0x80 := by
  cases r with
  | ibuf k =>
    have := k.isLt
    simp only [Reg.offset]
    omega
  | _ => decide

theorem regAt_outside {off size : Nat} (h : 0x80 ≤ off) : regAt off size = none := by
  cases hr : regAt off size with
  | none => rfl
  | some r =>
    have hoff : off = r.offset := registerMap_offset _ (regAt_some hr).2
    have := r.offset_lt
    omega

theorem memWrite_ilen_busy {s : State} (h : s.busy = true) (v : Word) : memWrite s 0x08 4 v = (s.markOverrun, .written) := by
  rw [← State.whenIdle_busy h (s.setIlen v)]
  exact memWrite_offset s .ilen v

theorem memWrite_ibuf_busy {s : State} (h : s.busy = true) (k : Fin 8) (v : Word) :
    memWrite s (0x40 + 4 * k.val) 4 v = (s.markOverrun, .written) := by
  rw [← State.whenIdle_busy h (s.setIbuf (s.ibuf.writeWord k.val v))]
  exact memWrite_offset s (.ibuf k) v

/-- After a reset STATUS reads 0 (10_state.md R51). -/
theorem State.resetWith_statusWord (m : Memory) : (State.resetWith m).statusWord = 0#32 := by
  have hzero : State.reset.statusWord = 0#32 := by decide
  rw [← hzero]
  exact State.statusWord_congr ⟨rfl, rfl, rfl, rfl, rfl, rfl, rfl, rfl, rfl, rfl⟩

/-! ## The step of the agent that moves (10_state.md R22) -/

theorem step_of_engineMoves {s : State} (h : EngineMoves s) : step s = engineStep (s.setTurns s.turns.tail) := by
  rcases h with hhead | ⟨hnil, hb⟩
  · obtain ⟨ts, hts⟩ := List.head?_eq_some_iff.mp hhead
    rw [step_engineTurn hts, hts, List.tail_cons]
  · rw [step_noTurn_busy hnil hb, hnil, List.tail_nil, State.setTurns_nil hnil]

theorem step_of_hostMoves {s : State} (h : HostMoves s) : step s = .next (hostStep (s.setTurns s.turns.tail)) := by
  rcases h with hhead | ⟨hnil, hb⟩
  · obtain ⟨ts, hts⟩ := List.head?_eq_some_iff.mp hhead
    rw [step_hostTurn hts, hts, List.tail_cons]
  · rw [step_noTurn_idle hnil hb, hnil, List.tail_nil, State.setTurns_nil hnil]

theorem step_of_resetMoves {s : State} (h : ResetMoves s) : step s = .next (s.setTurns s.turns.tail).resetEvent := by
  obtain ⟨ts, hts⟩ := List.head?_eq_some_iff.mp h
  rw [step_resetTurn hts, hts, List.tail_cons]

theorem engineStep_idle {s : State} (h : s.busy = false) : engineStep s = .next s := by
  rw [engineStep, if_neg (by simp [h])]

/-! ## The host's operations (30_encoding.md R96) -/

theorem hostStep_nil {s : State} (h : s.hostProg = []) : hostStep s = s := by rw [hostStep, h]

theorem hostStep_txn {s : State} {t : Txn} {ops : List HostOp} (h : s.hostProg = .txn t :: ops) :
    hostStep s = transact (s.setHostProg ops) t := by rw [hostStep, h]

theorem hostStep_wait {s : State} {ops : List HostOp} (h : s.hostProg = .wait :: ops) :
    hostStep s = (s.setHostProg (if s.busy then .wait :: ops else ops)).record (.data s.statusWord) := by
  rw [hostStep, h]
  rfl

theorem hostStep_siFromHdr {s : State} {ops : List HostOp} (h : s.hostProg = .siFromHdr :: ops) :
    hostStep s = (s.setHostProg (submitSiOf s.hdr0 ++ ops)).record (.data s.hdr0) := by
  rw [hostStep, h]
  rfl

/-- A read's answer is the register's, whatever the host still does and whoever moves next. -/
theorem memRead_agents (s : State) (ts : List Turn) (ops : List HostOp) (off size : Nat) :
    memRead ((s.setTurns ts).setHostProg ops) off size = memRead s off size := by
  rw [memRead, memRead]
  cases regAt off size with
  | none => rfl
  | some r => cases r <;> rfl

/-- A bus write leaves the host's record to the transaction. -/
theorem WriteEffect.trace {s t : State} {off size : Nat} {v : Word} {r : BusResp} (h : WriteEffect s off size v t r) :
    t.trace = s.trace := by
  cases h <;> rfl

end Sys2Proof.Machine

namespace Sys2Proof.Claims

open Sys2Proof.Machine

/-- Settles O14: no register lies there. -/
theorem offsetsOutsideWindow : Obligations.OffsetsOutsideWindow :=
  fun s _ _ v h => busError_of_regAt_none s v (regAt_outside h)

/-- Settles O17: the fields of the word that the read answers. -/
theorem statusLayout : Obligations.StatusLayout := by
  intro s
  refine ⟨s.statusWord, memRead_offset s .status, ?_⟩
  simp only [fld_eq_slice, Nat.reduceLeDiff, le_refl]
  exact s.statusWord_fields

/-- Settles O18: each offset is its register's. -/
theorem registerMapReads : Obligations.RegisterMapReads :=
  fun s => ⟨memRead_offset s .cmd, ⟨_, memRead_offset s .ilen, s.readReg_ilen_fields⟩, memRead_offset s .extr,
    memRead_offset s .lutr, memRead_offset s .hdr0, memRead_offset s .hdr1, memRead_offset s .hdr2, memRead_offset s .si0,
    memRead_offset s .ch0, memRead_offset s .ch1, memRead_offset s .ch2, memRead_offset s .ch3⟩

/-- Settles O43: the turn is the reset event, whose IBUF is the draw. -/
theorem resetEvent : Obligations.ResetEvent := by
  intro s ts h
  exact ⟨_, step_resetTurn h, rfl, State.resetWith_statusWord (drawIbuf s.draws), rfl, rfl, rfl, rfl, rfl, rfl, rfl, rfl, rfl,
    rfl, rfl, fun a ha => read_drawIbuf s.draws ha, rfl, rfl, rfl, rfl, rfl, rfl, rfl, rfl, rfl, rfl⟩

/-- Settles O44: the event leaves the agents' data, and a draw is in canonical form. -/
theorem resetKeepsHostData : Obligations.ResetKeepsHostData :=
  fun s _ h => ⟨_, step_resetTurn h, rfl, rfl, rfl, rfl, drawIbuf_wf s.draws⟩

/-- Settles O45: the registers after power-on are 0, and an idle MHRP takes the write. -/
theorem readyAfterPowerOn : Obligations.ReadyAfterPowerOn := by
  intro m w
  have hwrite := memWrite_cmd_idle (s := State.resetWith m) rfl w
  have hstatus := memRead_offset (State.resetWith m) .status
  rw [State.readReg, State.resetWith_statusWord m] at hstatus
  refine ⟨rfl, hstatus, memRead_offset _ .cmd, memRead_offset _ .ilen, ?_⟩
  rw [hwrite]
  exact ⟨rfl, rfl, rfl⟩

/-- Settles O46: an engine turn of a busy MHRP is the meaning of the decoded command. -/
theorem stepRunsDecodedCommand : Obligations.StepRunsDecodedCommand := by
  intro s i hb hd _
  refine ⟨fun hnil => ?_, fun ts hts => ?_⟩
  · rw [step_noTurn_busy hnil hb, engineStep_of_ok hb hd]
  · rw [step_engineTurn hts]
    exact engineStep_of_ok hb hd

/-- Settles O47: the host's turn is one operation of its program. -/
theorem hostTurnPerformsOneTransaction : Obligations.HostTurnPerformsOneTransaction := by
  intro s ops h
  rw [step_of_hostMoves h]
  refine ⟨fun hp => ?_, fun off size hp => ?_, fun off size v t r hp hw => ?_, fun hp => ?_, fun hp => ?_⟩
  · rw [hostStep_nil (s := s.setTurns s.turns.tail) hp]
    rfl
  · rw [hostStep_txn (s := s.setTurns s.turns.tail) hp, transact, memRead_agents]
    rfl
  · have heffect := memWrite_effect ((s.setTurns s.turns.tail).setHostProg ops) off size v
    have hw' : memWrite ((s.setTurns s.turns.tail).setHostProg ops) off size v = (t, r) := hw
    rw [hw'] at heffect
    have htrace : t.trace = s.trace := heffect.trace
    rw [hostStep_txn (s := s.setTurns s.turns.tail) hp, transact, hw', State.record, htrace]
  · rw [hostStep_wait (s := s.setTurns s.turns.tail) hp]
    rfl
  · rw [hostStep_siFromHdr (s := s.setTurns s.turns.tail) hp, fld_eq_slice s.hdr0 (by decide)]
    rfl

/-- Settles O49: the idle engine's turn passes. -/
theorem idleEngineTurnPasses : Obligations.IdleEngineTurnPasses := by
  intro s ts hts hb
  rw [step_engineTurn hts]
  exact engineStep_idle hb

/-- Settles O50: every turn answers. -/
theorem machineNeverStops : Obligations.MachineNeverStops := by
  intro s
  obtain ⟨t, h, -⟩ := step_effect s
  exact ⟨t, h⟩

end Sys2Proof.Claims

/-! PROOFS. The rules of the whole machine: what each step may change, and who must have moved (10_state.md R21, R22, R28 to R30,
R41 to R48; 60_exceptions.md R256, R257; 70_reset_and_hazards.md R284 to R287). -/

namespace Sys2Proof.Machine

open Sys2Proof.Claims

/-! ## Who moves -/

/-- The agent that moves in a step, and everything its turn can do. -/
theorem step_moves {s t : State} (h : step s = .next t) :
    (EngineMoves s ∧ ∃ ts, EngineEffect (s.setTurns ts) t) ∨ (HostMoves s ∧ ∃ ts, HostEffect (s.setTurns ts) t) ∨
      (ResetMoves s ∧ ∃ ts, t = (s.setTurns ts).resetEvent) := by
  cases step_next h with
  | engine ts t hwho heffect =>
    refine .inl ⟨?_, ts, heffect⟩
    rcases hwho with hts | ⟨hnil, -, hb⟩
    · exact .inl (by rw [hts]; rfl)
    · exact .inr ⟨hnil, hb⟩
  | host ts t hwho heffect =>
    refine .inr (.inl ⟨?_, ts, heffect⟩)
    rcases hwho with hts | ⟨hnil, -, hb⟩
    · exact .inl (by rw [hts]; rfl)
    · exact .inr ⟨hnil, hb⟩
  | reset ts hts => exact .inr (.inr ⟨by rw [ResetMoves, hts]; rfl, ts, rfl⟩)

/-! ## What a turn may change, beside the report and the results -/

/-- A host turn stores to ILEN or to a word of IBUF while idle, or leaves both alone (10_state.md R43). -/
theorem HostEffect.input {s t : State} (h : HostEffect s t) :
    (∃ v, NextWrite s 0x08 v ∧ s.busy = false ∧ t.ilen = v.extractLsb 5 0 ∧ t.ibuf = s.ibuf) ∨
    (∃ (k : Fin 8) (v : Word), NextWrite s (0x40 + 4 * k.val) v ∧ s.busy = false ∧ t.ilen = s.ilen) ∨
    t.ilen = s.ilen ∧ t.ibuf = s.ibuf := by
  cases h with
  | nothing => exact .inr (.inr ⟨rfl, rfl⟩)
  | read => exact .inr (.inr ⟨rfl, rfl⟩)
  | write ops off size v t r hp hw =>
    rcases hw.input with ⟨rfl, rfl, hb, rfl⟩ | ⟨k, rfl, rfl, hb, rfl⟩ | ⟨hilen, hibuf⟩
    · exact .inl ⟨v, ⟨ops, hp⟩, hb, by rw [State.setIlen_eq_extractLsb]; rfl, rfl⟩
    · exact .inr (.inl ⟨k, v, ⟨ops, hp⟩, hb, rfl⟩)
    · exact .inr (.inr ⟨hilen, hibuf⟩)

/-- A write to STATUS clears OVERRUN when bit 16 is 1 (10_state.md R29). -/
theorem writeStatus_eq (s : State) (v : Word) :
    s.writeStatus v = { s with overrun := if fld v 16 16 = 1 then false else s.overrun } :=
  congrArg Prod.fst ((memWrite_offset s .status v).symm.trans (statusWriteClearsOverrun s v))

/-- A host turn clears OVERRUN by a write to STATUS, sets it by a dropped write, or leaves it (10_state.md R29, R42, R43). -/
theorem HostEffect.overrun {s t : State} (h : HostEffect s t) :
    (∃ v, NextWrite s 0x04 v ∧ fld v 16 16 = 1 ∧ t.overrun = false) ∨
    (t.overrun = true ∧ s.busy = true ∧ ∃ off v, NextWrite s off v ∧ droppedWhileBusy off) ∨ t.overrun = s.overrun := by
  cases h with
  | nothing => exact .inr (.inr rfl)
  | read => exact .inr (.inr rfl)
  | write ops off size v t r hp hw =>
    cases hw with
    | status ho hz =>
      subst ho hz
      have hover : ((s.setHostProg ops).writeStatus v).overrun = if fld v 16 16 = 1 then false else s.overrun := by
        rw [writeStatus_eq]
        rfl
      by_cases hone : fld v 16 16 = 1
      · exact .inl ⟨v, ⟨ops, hp⟩, hone, hover.trans (if_pos hone)⟩
      · exact .inr (.inr (hover.trans (if_neg hone)))
    | dropped hz hb hoff =>
      subst hz
      exact .inr (.inl ⟨rfl, hb, off, v, ⟨ops, hp⟩, hoff⟩)
    | refused => exact .inr (.inr rfl)
    | accepted => exact .inr (.inr rfl)
    | ilen => exact .inr (.inr rfl)
    | ibuf => exact .inr (.inr rfl)

/-- A host turn accepts a command while idle, or leaves LCMD and the completion bits alone; the word is the one written. -/
theorem HostEffect.acceptance {s t : State} (h : HostEffect s t) :
    (NextWrite s 0x00 t.lcmd ∧ s.busy = false ∧ t.busy = true ∧ t.done = false ∧ t.err = false ∧ t.errcode = 0#4) ∨
      s.SameReport t := by
  rcases h.report with ⟨ops, hp, hrest⟩ | hsame
  · exact .inl ⟨⟨ops, hp⟩, hrest⟩
  · exact .inr hsame

/-- An engine turn leaves OVERRUN, LCMD, ILEN and IBUF alone (10_state.md R47). -/
theorem EngineEffect.inputKept {s t : State} (h : EngineEffect s t) : InputKept s t ∧ t.ibuf = s.ibuf := by
  rcases h.report with ⟨-, rfl⟩ | ⟨-, -, -, hsame⟩
  · exact ⟨⟨rfl, rfl, rfl, fun _ => rfl, rfl, rfl, rfl, rfl⟩, rfl⟩
  · exact ⟨hsame.inputKept, hsame.ibuf⟩

/-- An engine turn changes a group only when it completes a command of that group (10_state.md R30). -/
theorem EngineEffect.groupKept {s t : State} (h : EngineEffect s t) {g : Group}
    (hg : ∀ i, s.busy = true → decode s.lcmd = .ok i → groupOf i ≠ g) : GroupKept g s t := by
  cases h with
  | idle => exact ⟨rfl, rfl⟩
  | ok i r hb hd _ hgroup =>
    obtain ⟨-, -, -, -, -, -, -, hother⟩ := State.completeOk_spec s r
    exact hother g (hgroup ▸ (hg i hb hd).symm)
  | failed i e hb hd =>
    obtain ⟨-, -, -, -, -, -, -, hother⟩ := State.completeFail_spec s (groupOf i) e
    exact hother g (hg i hb hd).symm
  | illegal => exact s.completeIllegal_groupKept g

end Sys2Proof.Machine

namespace Sys2Proof.Claims

open Sys2Proof.Machine

/-- Settles O10: the writes reach their registers, which drop them while busy, and no turn but a reset stores to the input. -/
theorem inputWriteWhileBusyDropped : Obligations.InputWriteWhileBusyDropped := by
  refine ⟨fun s v h => memWrite_ilen_busy h v, fun s k v h => memWrite_ibuf_busy h k v, fun s t hb hreset h => ?_⟩
  have hkept : t.ibuf = s.ibuf ∧ t.ilen = s.ilen := by
    rcases step_moves h with ⟨-, ts, heffect⟩ | ⟨-, ts, heffect⟩ | ⟨hmoves, -⟩
    · obtain ⟨⟨-, hilen, -⟩, hibuf⟩ := heffect.inputKept
      exact ⟨hibuf, hilen⟩
    · rcases heffect.input with ⟨v, -, hidle, -⟩ | ⟨k, v, -, hidle, -⟩ | ⟨hilen, hibuf⟩
      · cases hb.symm.trans hidle
      · cases hb.symm.trans hidle
      · exact ⟨hibuf, hilen⟩
    · exact absurd hmoves hreset
  obtain ⟨hibuf, hilen⟩ := hkept
  exact ⟨hibuf, hilen, State.inputBytes_congr hilen fun a _ => by rw [hibuf]⟩

/-- Settles O55: by who moves, a host turn by `HostEffect.overrun`. -/
theorem overrunIsSticky : Obligations.OverrunIsSticky := by
  intro s t h
  have unchanged {P Q : Prop} (hover : t.overrun = s.overrun) :
      (s.overrun = true → t.overrun = false → P) ∧ (s.overrun = false → t.overrun = true → Q) := by
    rw [hover]
    exact ⟨fun hs ht => (by cases hs.symm.trans ht), fun hs ht => (by cases hs.symm.trans ht)⟩
  rcases step_moves h with ⟨-, ts, heffect⟩ | ⟨hmoves, ts, heffect⟩ | ⟨hmoves, ts, rfl⟩
  · obtain ⟨⟨-, -, hover, -⟩, -⟩ := heffect.inputKept
    exact unchanged hover
  · rcases heffect.overrun with ⟨v, hnext, hone, hover⟩ | ⟨hover, hb, off, v, hnext, hoff⟩ | hover
    · exact ⟨fun _ _ => .inr ⟨hmoves, v, hnext, hone⟩, fun _ ht => (by cases hover.symm.trans ht)⟩
    · exact ⟨fun _ ht => (by cases hover.symm.trans ht), fun _ _ => ⟨hmoves, hb, off, v, hnext, hoff⟩⟩
    · exact unchanged hover
  · exact ⟨fun _ _ => .inl hmoves, fun _ ht => (by cases ht)⟩

/-- Settles O56: LCMD and BUSY change by an acceptance, a completion or a reset. -/
theorem commandsStartAndEndAsStated : Obligations.CommandsStartAndEndAsStated := by
  intro s t h
  rcases step_moves h with ⟨hmoves, ts, heffect⟩ | ⟨hmoves, ts, heffect⟩ | ⟨hmoves, ts, rfl⟩
  · rcases heffect.report with ⟨-, rfl⟩ | ⟨hb, hbusy, hdone, hsame⟩
    · exact ⟨fun hs ht => (by cases hs.symm.trans ht), fun hne => absurd rfl hne, fun hs ht => (by cases hs.symm.trans ht)⟩
    · exact ⟨fun hs => (by cases hs.symm.trans hb), fun hne => absurd hsame.lcmd hne, fun _ _ => .inr ⟨hmoves, hdone⟩⟩
  · rcases heffect.acceptance with ⟨hnext, hb, hbusy, -⟩ | hsame
    · exact ⟨fun _ _ => ⟨hmoves, hnext⟩, fun _ => .inr ⟨hmoves, hb, hbusy⟩, fun hs => (by cases hs.symm.trans hb)⟩
    · have hbusy : t.busy = s.busy := hsame.busy
      exact ⟨fun hs ht => (by cases hs.symm.trans (hbusy.symm.trans ht)), fun hne => absurd hsame.lcmd hne,
        fun hs ht => (by cases hs.symm.trans (hbusy.symm.trans ht))⟩
  · exact ⟨fun _ ht => (by cases ht), fun _ => .inl hmoves, fun _ _ => .inl hmoves⟩

/-- Settles O57: the report changes by an acceptance, a completion or a reset, and a completion sets all its bits. -/
theorem statusBitsChangeAsStated : Obligations.StatusBitsChangeAsStated := by
  intro s t h
  have unchanged {P1 P2 P3 P4 P5 : Prop} (hdone : t.done = s.done) (herr : t.err = s.err) (hcode : t.errcode = s.errcode) :
      (s.done = false → t.done = true → P1) ∧ (s.err = false → t.err = true → P2) ∧
        (t.errcode ≠ s.errcode → t.errcode ≠ 0#4 → P3) ∧ (s.done = true → t.done = false → P4) ∧
        (s.err = true ∧ t.err = false ∨ s.errcode ≠ 0#4 ∧ t.errcode = 0#4 → P5) := by
    rw [hdone, herr, hcode]
    refine ⟨fun hs ht => (by cases hs.symm.trans ht), fun hs ht => (by cases hs.symm.trans ht), fun hne => absurd rfl hne,
      fun hs ht => (by cases hs.symm.trans ht), ?_⟩
    rintro (⟨hs, ht⟩ | ⟨hs, ht⟩)
    · cases hs.symm.trans ht
    · exact absurd ht hs
  rcases step_moves h with ⟨hmoves, ts, heffect⟩ | ⟨hmoves, ts, heffect⟩ | ⟨hmoves, ts, rfl⟩
  · rcases heffect.report with ⟨-, rfl⟩ | ⟨hb, -⟩
    · exact unchanged rfl rfl rfl
    · obtain ⟨hbusy, hdone, houtcome⟩ := heffect.outcome hb
      refine ⟨fun _ _ => ⟨hmoves, hb, hbusy⟩, fun _ _ => ⟨hmoves, hb, hbusy, hdone⟩, fun _ hne => ?_,
        fun _ ht => (by cases hdone.symm.trans ht), fun hcleared => ?_⟩
      · rcases houtcome with ⟨-, hcode⟩ | ⟨herr, -⟩
        · exact absurd hcode hne
        · exact ⟨hmoves, hb, hbusy, hdone, herr⟩
      · rcases houtcome with ⟨herr, hcode⟩ | ⟨herr, hcode⟩
        · exact .inr (.inr ⟨hmoves, hb, hbusy, hdone, herr, hcode⟩)
        · rcases hcleared with ⟨-, ht⟩ | ⟨-, ht⟩
          · cases herr.symm.trans ht
          · exact absurd ht hcode
  · rcases heffect.acceptance with ⟨hnext, hb, hbusy, hdone, herr, hcode⟩ | hsame
    · exact ⟨fun _ ht => (by cases hdone.symm.trans ht), fun _ ht => (by cases herr.symm.trans ht), fun _ hne => absurd hcode hne,
        fun _ _ => .inr ⟨hmoves, hb, hbusy, hnext⟩, fun _ => .inr (.inl ⟨hmoves, hb, hbusy, hnext⟩)⟩
    · exact unchanged hsame.done hsame.err hsame.errcode
  · exact ⟨fun _ ht => (by cases ht), fun _ ht => (by cases ht), fun _ hne => absurd rfl hne, fun _ _ => .inl hmoves,
      fun _ => .inl hmoves⟩

/-- Settles O58: an idle engine's turn passes, and a host turn accepts a command or keeps the report. -/
theorem failureReportStays : Obligations.FailureReportStays := by
  intro s t h hb herr
  rcases step_moves h with ⟨-, ts, heffect⟩ | ⟨hmoves, ts, heffect⟩ | ⟨hmoves, -⟩
  · rcases heffect.report with ⟨-, rfl⟩ | ⟨hbusy, -⟩
    · exact .inl ⟨herr, rfl, rfl, rfl⟩
    · cases hb.symm.trans hbusy
  · rcases heffect.acceptance with ⟨hnext, -, hbusy, -⟩ | hsame
    · exact .inr (.inr ⟨hmoves, hbusy, hnext⟩)
    · exact .inl ⟨hsame.err.trans herr, hsame.errcode, hsame.done, hsame.lcmd⟩
  · exact .inr (.inl hmoves)

/-- Settles O59: no host turn changes a result, and a completion only its own group's. -/
theorem resultsChangeOnlyByTheirCommand : Obligations.ResultsChangeOnlyByTheirCommand := by
  intro s t g h hchanged
  rcases step_moves h with ⟨hmoves, ts, heffect⟩ | ⟨-, ts, heffect⟩ | ⟨hmoves, -⟩
  · have hown : ∃ i, s.busy = true ∧ decode s.lcmd = .ok i ∧ groupOf i = g := by
      by_contra hno
      exact hchanged (heffect.groupKept fun i hb hd hg => hno ⟨i, hb, hd, hg⟩)
    obtain ⟨i, hb, hd, hg⟩ := hown
    obtain ⟨-, hdone, -⟩ := heffect.outcome hb
    exact .inr ⟨hmoves, hb, hdone, i, hd, hg⟩
  · exact absurd (heffect.sameResults.group g) hchanged
  · exact .inl hmoves

/-- Settles O60: a completion keeps the input, and a host turn stores to it by `HostEffect.input`. -/
theorem inputChangesOnlyByHostWrites : Obligations.InputChangesOnlyByHostWrites := by
  intro s t h
  rcases step_moves h with ⟨-, ts, heffect⟩ | ⟨hmoves, ts, heffect⟩ | ⟨hmoves, -⟩
  · obtain ⟨⟨-, hilen, -⟩, hibuf⟩ := heffect.inputKept
    exact ⟨fun hne => absurd hilen hne, fun hne => absurd hibuf hne⟩
  · rcases heffect.input with ⟨v, hnext, hb, hilen, hibuf⟩ | ⟨k, v, hnext, hb, hilen⟩ | ⟨hilen, hibuf⟩
    · exact ⟨fun _ => .inr ⟨hmoves, hb, v, hnext, congrArg BitVec.toNat hilen⟩, fun hne => absurd hibuf hne⟩
    · exact ⟨fun hne => absurd hilen hne, fun _ => .inr ⟨hmoves, hb, k, v, hnext⟩⟩
    · exact ⟨fun hne => absurd hilen hne, fun hne => absurd hibuf hne⟩
  · exact ⟨fun _ => .inl hmoves, fun _ => .inl hmoves⟩

end Sys2Proof.Claims

/-! PROOFS. Operands and operations as a programmer writes them: the assembler's checks and the host's LOAD (30_encoding.md R95,
R96). -/

namespace Sys2Proof.Machine

open Sys2Proof.Claims

/-! ## The assembler (30_encoding.md R95) -/

/-- A command whose operands are read is assembled exactly when they fit. -/
theorem assembleCommand_of_commandOf {mnemonic : List Char} {ops : List AsmOperand} {i : Instr}
    (h : commandOf mnemonic ops = some i) : assembleCommand mnemonic ops = if i.wf then some (encode i) else none := by
  rw [assembleCommand, h]
  rfl

theorem commandOf_extract (o w : Nat) : commandOf "EXTRACT".toList [.num o, .num w] = some (.extract o w) := rfl

theorem commandOf_parseSi (mode : AsmOperand) : commandOf "PARSE_SI".toList [mode] = (modeOperand mode).map .parseSi := rfl

theorem commandOf_lutBitrate (index : Nat) (layer : AsmOperand) :
    commandOf "LUT_BITRATE".toList [.num index, layer] = (layerOperand layer).map (.lutBitrate index) := rfl

theorem commandOf_lutSrate (index : Nat) : commandOf "LUT_SRATE".toList [.num index] = some (.lutSrate index) := rfl

theorem commandOf_lutFsize (kbps hz : Nat) : commandOf "LUT_FSIZE".toList [.num kbps, .num hz] = some (.lutFsize kbps hz) := rfl

/-- A number that is a mode's code assembles, and any other is refused. -/
theorem assembleCommand_parseSi_num (n : Nat) : assembleCommand "PARSE_SI".toList [.num n] =
    if n < 4 then some (encode (.parseSi (ChannelMode.ofCode n))) else none := by
  rw [assembleCommand, commandOf_parseSi, modeOperand]
  split <;> rfl

/-- The layer names stand for their codes. -/
theorem assembleCommand_layerName (index : Nat) {layer layer' : AsmOperand} (h : layerOperand layer = layerOperand layer') :
    assembleCommand "LUT_BITRATE".toList [.num index, layer] = assembleCommand "LUT_BITRATE".toList [.num index, layer'] := by
  rw [assembleCommand, assembleCommand, commandOf_lutBitrate, commandOf_lutBitrate, h]

/-! ## LOAD (30_encoding.md R96) -/

theorem load_length (bytes : List Byte) : (load bytes).length = (bytes.length + 3) / 4 + 1 := by simp [load]

/-- The word writes of a LOAD come first, in order. -/
theorem load_getElem?_word {bytes : List Byte} {k : Nat} (h : 4 * k < bytes.length) :
    (load bytes)[k]? = some (.txn (.write (0x40 + 4 * k) 4 (loadWord bytes k))) := by
  have hk : k < (bytes.length + 3) / 4 := by omega
  rw [load, List.getElem?_append_left (by simpa using hk), List.getElem?_map, List.getElem?_range hk]
  rfl

/-- The write to ILEN comes last. -/
theorem load_getElem?_ilen (bytes : List Byte) :
    (load bytes)[(bytes.length + 3) / 4]? = some (.txn (.write 0x08 4 (BitVec.ofNat 32 bytes.length))) := by
  rw [load, List.getElem?_append_right (by simp)]
  simp [HostOp.wr]

end Sys2Proof.Machine

namespace Sys2Proof.Claims

open Sys2Proof.Machine

/-- Settles O7: the operands read give the command, and `Instr.wf` decides whether they fit. -/
theorem assemblerChecksOperands : Obligations.AssemblerChecksOperands := by
  refine ⟨fun o w => ?_, assembleCommand_parseSi_num, fun i l => ?_, fun i => ?_, fun k z => ?_, rfl, rfl, rfl, rfl, rfl, rfl,
    fun i => ⟨assembleCommand_layerName i rfl, assembleCommand_layerName i rfl, assembleCommand_layerName i rfl⟩⟩
  · rw [assembleCommand_of_commandOf (commandOf_extract o w)]
    simp [Instr.wf]
  · rw [assembleCommand_of_commandOf (commandOf_lutBitrate i (.num l))]
    simp [Instr.wf]
  · rw [assembleCommand_of_commandOf (commandOf_lutSrate i)]
    simp [Instr.wf]
  · rw [assembleCommand_of_commandOf (commandOf_lutFsize k z)]
    simp [Instr.wf]

/-- Settles O48: LOAD by its list, the others by definition. -/
theorem hostNotationExpands : Obligations.HostNotationExpands := by
  refine ⟨fun _ _ => rfl, fun _ => rfl, fun _ => rfl, rfl,
    fun bytes => ⟨load_length bytes, fun k hk => ?_, load_getElem?_ilen bytes⟩⟩
  refine ⟨loadWord bytes k, load_getElem?_word hk, ?_⟩
  simp only [fld_eq_slice, Nat.zero_le, Nat.reduceLeDiff]
  exact loadWord_fields bytes k

end Sys2Proof.Claims

/-! PROOFS. The guarded step, and a command in flight under any host program (60_exceptions.md R253; 10_state.md
R43, R45, R48). -/

namespace Sys2Proof.Machine

open Sys2Proof.Claims

/-! ## When a command reports ContractViolation -/

/-- Only a broken precondition is reported as ContractViolation. -/
theorem contractBroken_of_runInstr {p : Params} {B : List Byte} {s : State} {i : Instr}
    (h : runInstr p s.inputLength B i = .error .contractViolation) : contractBroken s i := by
  cases i with
  | extract o w =>
    by_contra hgood
    simp only [contractBroken, not_or, Nat.not_lt] at hgood
    obtain ⟨hn, hw, hhi, hend⟩ := hgood
    have hok : runInstr p s.inputLength B (.extract o w) = .ok (.ext (pack [(0, bits B o w)])) :=
      runExtract_of_precondition B hn (Nat.pos_of_ne_zero hw) hhi hend
    cases hok.symm.trans h
  | parseHdr =>
    intro hn
    have hlen : s.inputLength = 4 := hn
    rw [runInstr, runParseHdr, if_pos hlen, map_eq_error_iff] at h
    have hmem := parseFrameHeader_error h
    simp at hmem
  | parseSi mode =>
    intro hn
    cases (runParseSi_of_length p B hn).symm.trans h
  | parseCh =>
    intro hn
    have hlen : s.inputLength = 8 := hn
    rw [runInstr, runParseCh, if_pos hlen, map_eq_error_iff, parseChannel_eq, map_eq_error_iff] at h
    cases parseVariant_error h
  | lutBitrate _ _ => exact absurd (runInstr_error h) (by simp [possibleFailures])
  | lutSrate _ => exact absurd (runInstr_error h) (by simp [possibleFailures])
  | lutFsize _ _ => exact absurd (runInstr_error h) (by simp [possibleFailures])

/-! ## The guarded step -/

theorem guardedStep_of_fault {s t : State} {f : Fault} (h : step s = .next t) (hf : hostFault s t = some f) :
    guardedStep s = .fault f := by
  rw [guardedStep, h]
  simp only [hf]

theorem guardedStep_of_none {s t : State} (h : step s = .next t) (hf : hostFault s t = none) : guardedStep s = step s := by
  rw [guardedStep, h]
  simp only [hf]

/-- A completion commits the fault of its code. -/
theorem hostFault_of_completion {s t : State} (htrace : t.trace = s.trace) (hb : s.busy = true) (hbusy : t.busy = false)
    (hdone : t.done = true) : hostFault s t =
      if t.errcode = Failure.contractViolation.code then some .contractViolation
      else if t.errcode = Failure.illegalCommand.code then some .illegalCommand else none := by
  rw [hostFault, htrace, if_neg List.ne_cons_self, if_pos (by simp [hb, hbusy, hdone])]

theorem hostFault_of_report {s t : State} (htrace : t.trace ≠ .busError :: s.trace) (h : ¬ (s.busy ∧ ¬ t.busy ∧ t.done)) :
    hostFault s t = none := by
  rw [hostFault, if_neg htrace, if_neg h]

/-- A host turn completes no command. -/
theorem HostEffect.no_completion {s t : State} (h : HostEffect s t) : ¬ (s.busy ∧ ¬ t.busy ∧ t.done) := by
  rintro ⟨hb, hnot, -⟩
  rcases h.acceptance with ⟨-, hidle, -⟩ | hsame
  · cases hb.symm.trans hidle
  · exact hnot (hsame.busy.trans hb)

/-- At a host turn the guarded step stops exactly on a bus error. -/
theorem guardedStep_of_hostMoves {s : State} (h : HostMoves s) :
    guardedStep s =
      if (hostStep (s.setTurns s.turns.tail)).trace = .busError :: s.trace then .fault .busError else step s := by
  have hstep := step_of_hostMoves h
  split
  case isTrue hbus => exact guardedStep_of_fault hstep (by rw [hostFault, if_pos hbus])
  case isFalse hbus =>
    exact guardedStep_of_none hstep
      (hostFault_of_report hbus (hostStep_effect (s.setTurns s.turns.tail)).no_completion)

/-- At a host turn that is answered, the answer decides. -/
theorem guardedStep_of_answer {s : State} {r : BusResp} (h : HostMoves s)
    (htrace : (hostStep (s.setTurns s.turns.tail)).trace = r :: s.trace) :
    if r = .busError then guardedStep s = .fault .busError else guardedStep s = step s := by
  rw [guardedStep_of_hostMoves h, htrace]
  split
  case isTrue hbus => rw [if_pos (by rw [hbus])]
  case isFalse hbus => rw [if_neg fun he => hbus (List.cons.inj he).1]

/-- At an engine turn a broken precondition is a fault. -/
theorem guardedStep_of_contractBroken {s : State} {i : Instr} (hmoves : EngineMoves s) (hb : s.busy = true)
    (hd : decode s.lcmd = .ok i) (h : contractBroken s i) : guardedStep s = .fault .contractViolation := by
  have hbroken : contractBroken (s.setTurns s.turns.tail) i := by cases i <;> exact h
  obtain ⟨hsame, hbusy, hdone, -, hcode, -⟩ :=
    State.completeFail_spec (s.setTurns s.turns.tail) (groupOf i) .contractViolation
  refine guardedStep_of_fault ((step_of_engineMoves hmoves).trans (engineStep_contractBroken hb hd hbroken)) ?_
  rw [hostFault_of_completion (s := s) hsame.trace hb hbusy hdone, if_pos hcode]

/-- At an engine turn a legal command whose precondition holds commits no fault. -/
theorem guardedStep_of_contractKept {s : State} {i : Instr} (hmoves : EngineMoves s) (hb : s.busy = true)
    (hd : decode s.lcmd = .ok i) (h : ¬ contractBroken s i) : guardedStep s = step s := by
  have hstep := (step_of_engineMoves hmoves).trans (engineStep_of_ok (s := s.setTurns s.turns.tail) hb hd)
  rcases exec_cases i (s.setTurns s.turns.tail) with ⟨r, -, -, hexec⟩ | ⟨e, hrun, hexec⟩
  · obtain ⟨hsame, hbusy, hdone, -, hcode, -⟩ := State.completeOk_spec (s.setTurns s.turns.tail) r
    refine guardedStep_of_none (hstep.trans hexec) ?_
    rw [hostFault_of_completion (s := s) hsame.trace hb hbusy hdone, hcode]
    rfl
  · obtain ⟨hsame, hbusy, hdone, -, hcode, -⟩ := State.completeFail_spec (s.setTurns s.turns.tail) (groupOf i) e
    have hcontract : e ≠ .contractViolation := by
      rintro rfl
      exact h (contractBroken_of_runInstr hrun)
    refine guardedStep_of_none (hstep.trans hexec) ?_
    rw [hostFault_of_completion (s := s) hsame.trace hb hbusy hdone, hcode, if_neg fun hc => hcontract (Failure.code_inj hc),
      if_neg fun hc => runInstr_error_ne_illegal hrun (Failure.code_inj hc)]

/-- A write's answer is fixed by its offset and size. -/
theorem memWrite_answer (s s' : State) (off size : Nat) (v : Word) : (memWrite s off size v).2 = (memWrite s' off size v).2 := by
  rw [memWrite, memWrite]
  cases regAt off size with
  | none => rfl
  | some r => cases r <;> rfl

/-- A transaction records its answer. -/
theorem trace_transact_write (s : State) (off size : Nat) (v : Word) :
    (transact s (.write off size v)).trace = (memWrite s off size v).2 :: s.trace := by
  rw [transact, State.record_trace, (memWrite_effect s off size v).trace]

/-! ## A command in flight -/

/-- A host turn takes no turn off the list; `step` did. -/
theorem HostEffect.turns {s t : State} (h : HostEffect s t) : t.turns = s.turns := by
  cases h with
  | nothing => rfl
  | read => rfl
  | write ops off size v t r _ hw => cases hw <;> rfl

/-- While a command is in flight no host turn stores to its input (10_state.md R43). -/
theorem HostEffect.inputKept_of_busy {s t : State} (h : HostEffect s t) (hb : s.busy = true) :
    t.ilen = s.ilen ∧ t.ibuf = s.ibuf := by
  rcases h.input with ⟨v, -, hidle, -⟩ | ⟨k, v, -, hidle, -⟩ | hsame
  · cases hb.symm.trans hidle
  · cases hb.symm.trans hidle
  · exact hsame

/-- While a command is in flight, any number of host turns leave its word, its input and the results alone. -/
theorem run_hostTurns (n : Nat) {s : State} {ts : List Turn} (hb : s.busy = true)
    (hts : s.turns = List.replicate n .host ++ ts) :
    ∃ t : State, (∀ k, Sys2Proof.core.run (n + k) s = Sys2Proof.core.run k t) ∧ t.busy = true ∧ t.turns = ts ∧ t.lcmd = s.lcmd ∧
      t.ilen = s.ilen ∧ t.ibuf = s.ibuf ∧ ∀ g, GroupKept g s t := by
  induction n generalizing s with
  | zero => exact ⟨s, fun k => by rw [Nat.zero_add], hb, hts, rfl, rfl, rfl, fun _ => ⟨rfl, rfl⟩⟩
  | succ n ih =>
    have hturn : s.turns = .host :: (List.replicate n .host ++ ts) := hts
    have heffect := hostStep_effect (s.setTurns (List.replicate n .host ++ ts))
    have hreport := heffect.acceptance.resolve_left fun hidle => by cases hb.symm.trans hidle.2.1
    have hkept := heffect.inputKept_of_busy hb
    obtain ⟨t, hrun, hbusy, hturns, hlcmd, hilen, hibuf, hgroups⟩ := ih (hreport.busy.trans hb) heffect.turns
    refine ⟨t, fun k => ?_, hbusy, hturns, hlcmd.trans hreport.lcmd, hilen.trans hkept.1, hibuf.trans hkept.2, fun g => ?_⟩
    · rw [Nat.add_right_comm, core_run_succ (step_hostTurn hturn), hrun]
    · obtain ⟨hres, hval⟩ := heffect.sameResults.group g
      exact ⟨(hgroups g).1.trans hres, (hgroups g).2.trans hval⟩

end Sys2Proof.Machine

namespace Sys2Proof.Claims

open Sys2Proof.Machine

/-- Settles O51: an engine turn by the completion's code, a host turn by its answer, a reset by neither. -/
theorem guardedStepFaults : Obligations.GuardedStepFaults := by
  refine ⟨fun s i hmoves hb hd => ?_, fun s d hmoves hb hd => ?_, fun s hmoves hb => ?_, fun s off size v ops hmoves hp => ?_,
    fun s off size ops hmoves hp => ?_, fun s ops hmoves hp => ?_, fun s hmoves => ?_⟩
  · refine ⟨⟨fun hfault => ?_, guardedStep_of_contractBroken hmoves hb hd⟩, guardedStep_of_contractKept hmoves hb hd⟩
    by_contra hkept
    obtain ⟨t, hstep, -⟩ := step_effect s
    cases (hfault.symm.trans (guardedStep_of_contractKept hmoves hb hd hkept)).trans hstep
  · have hstep : step s = .next (s.setTurns s.turns.tail).completeIllegal :=
      (step_of_engineMoves hmoves).trans (engineStep_illegal hb hd)
    refine guardedStep_of_fault hstep ?_
    rw [hostFault_of_completion (s := s) (t := (s.setTurns s.turns.tail).completeIllegal) rfl hb rfl rfl]
    rfl
  · have hstep : step s = .next (s.setTurns s.turns.tail) := (step_of_engineMoves hmoves).trans (engineStep_idle hb)
    refine guardedStep_of_none hstep (hostFault_of_report List.ne_cons_self ?_)
    simp [hb]
  · have htrace : (hostStep (s.setTurns s.turns.tail)).trace = (memWrite s off size v).2 :: s.trace := by
      rw [hostStep_txn (s := s.setTurns s.turns.tail) hp, trace_transact_write, memWrite_answer _ s]
      rfl
    exact guardedStep_of_answer hmoves htrace
  · have htrace : (hostStep (s.setTurns s.turns.tail)).trace = memRead s off size :: s.trace := by
      rw [hostStep_txn (s := s.setTurns s.turns.tail) hp, transact, memRead_agents]
      rfl
    exact guardedStep_of_answer hmoves htrace
  · have hanswer : (hostStep (s.setTurns s.turns.tail)).trace ≠ .busError :: s.trace := by
      rcases hp with hp | hp | hp
      · rw [hostStep_wait (s := s.setTurns s.turns.tail) hp]
        exact fun h => by cases (List.cons.inj h).1
      · rw [hostStep_siFromHdr (s := s.setTurns s.turns.tail) hp]
        exact fun h => by cases (List.cons.inj h).1
      · rw [hostStep_nil (s := s.setTurns s.turns.tail) hp]
        exact List.ne_cons_self
    rw [guardedStep_of_hostMoves hmoves, if_neg hanswer]
  · refine guardedStep_of_none (step_of_resetMoves hmoves) (hostFault_of_report List.ne_cons_self ?_)
    simp

/-- Settles O54: the host turns keep the word, the input and the results, and the engine's turn completes. -/
theorem inFlightCommandCompletesUntouched : Obligations.InFlightCommandCompletesUntouched := by
  intro n s ts hb hts
  obtain ⟨u, hrun, hub, huts, hulcmd, huilen, huibuf, hugroups⟩ := run_hostTurns n hb hts
  have hstep : step u = engineStep (u.setTurns ts) := step_engineTurn huts
  have hbytes : u.inputBytes = s.inputBytes := State.inputBytes_congr huilen fun a _ => by rw [huibuf]
  have hlength : u.inputLength = s.inputLength := congrArg BitVec.toNat huilen
  obtain ⟨-, t, hengine, hbusy, hdone, ⟨htlcmd, htilen, -, htbytes, -, htturns, -⟩, houtcome⟩ :=
    engineCompletesAsRunSays (u.setTurns ts) hub
  have kept {g : Group} (h : GroupKept g (u.setTurns ts) t) : GroupKept g s t :=
    ⟨h.1.trans (hugroups g).1, h.2.trans (hugroups g).2⟩
  refine ⟨t, (hrun 1).trans (core_run_succ (hstep.trans hengine)), hbusy, hdone, htturns, htlcmd.trans hulcmd,
    htilen.trans huilen, fun a => (htbytes a).trans (by rw [State.setTurns_ibuf, huibuf]), ?_⟩
  rw [State.setTurns_inputBytes, State.setTurns_inputLength, State.setTurns_lcmd, hbytes, hlength, hulcmd] at houtcome
  cases hout : runCommand mhrp s.lcmd s.inputLength s.inputBytes with
  | ok r =>
    rw [hout] at houtcome
    obtain ⟨herr, hcode, hres, hval, hother⟩ := houtcome
    exact ⟨herr, hcode, hres, hval, fun g hg => kept (hother g hg)⟩
  | error e =>
    rw [hout] at houtcome
    obtain ⟨herr, hcode, hlegal, hillegal⟩ := houtcome
    refine ⟨herr, hcode, fun i hi => ?_, fun d hd g => kept ((hillegal d hd).2 g)⟩
    obtain ⟨-, hres, hval, hother⟩ := hlegal i hi
    exact ⟨hres, hval, fun g hg => kept (hother g hg)⟩

end Sys2Proof.Claims
